-- ==== Sys2Proof/Word.lean ====
section
/-! DEFINITION. The widths of the core's values (00_scope.md R5, 30_encoding.md R80). -/

namespace Sys2Proof

/-- A field element of GF(2^8): 8 bits (R5 `BYTE`). -/
abbrev Byte := BitVec 8

/-- A block, a round key, a result: 64 bits (R5 `BLOCK`). -/
abbrev Block := BitVec 64

/-- A master key: 128 bits (R5 `KEY`), K_0 in the most significant byte (R82). -/
abbrev Key := BitVec 128

/-- A command word: 32 bits (R80). -/
abbrev CmdWord := BitVec 32

/-- Command data: 192 bits (R80). -/
abbrev CmdData := BitVec 192

end Sys2Proof
end

