-- ==== Sys2Proof/Machine/State.lean ====
section
/-! DEFINITION. The state of the core (10_state.md), as plain data, and its value after reset (R36). -/

namespace Sys2Proof.Machine

/-- The error codes of STATUS.ERR (60_exceptions.md R242). There are no others: codes 7 to 15 never appear. -/
inductive ErrCode where
  /-- 0: no error. -/
  | none
  /-- 1: OP is not in the opcode map. -/
  | illegalOp
  /-- 2: RSVD is not 0, or IDX is not 0 for a command other than `sbox`. -/
  | rsvdField
  /-- 3: `sbox` with IDX 0 or 9 and above. -/
  | badIndex
  /-- 4: `blk.enc` while KEYED is 0. -/
  | noKey
  /-- 5: `cfb.enc` or `cfb.dec` while CFB_RDY is 0. -/
  | noCfb
  /-- 6: `blk.dec`, always. -/
  | unimplemented
deriving DecidableEq, Repr

/-- What the host drives on the core's input ports at one rising edge (20_memory.md R51). -/
structure Pins where
  /-- `rst`, active high. -/
  rst : Bool
  /-- `cmd_valid`. -/
  cmdValid : Bool
  /-- `cmd_word`. -/
  cmdWord : CmdWord
  /-- `cmd_data`. -/
  cmdData : CmdData
deriving DecidableEq, Repr

/-- A host that does nothing: no reset and no offer (log 3). -/
def Pins.idle : Pins := { rst := false, cmdValid := false, cmdWord := 0, cmdData := 0 }

/-- The key schedule in progress (42_block_cipher.md R160): the working registers WU and WL (R35), and the round keys
made so far, RK[1] first. -/
structure KsWork where
  wu : Block
  wl : Block
  made : List Block
deriving DecidableEq, Repr

/-- What a sequencer that has reached COMPLETE holds for the command to commit (R164, R170, 43_cfb.md R210). -/
inductive Pending where
  /-- The round keys of a finished key schedule. -/
  | keys (made : List Block)
  /-- BS after round 27 of `blk.enc`. -/
  | block (bs : Block)
  /-- The buffer, the position counter and the output byte of a byte command. -/
  | byte (ks : Vector Byte 8) (kpos : BitVec 4) (out : Byte)
deriving DecidableEq, Repr

/-- The command sequencer: the constructor is the FSM register of R35, and its arguments are the hidden registers
that the state uses (R164, R170, 43_cfb.md R210). A register that a state does not use holds nothing (R35; log 2). -/
inductive Sequencer where
  /-- IDLE: the command in flight needs no sequencing. -/
  | idle
  /-- KS_ROUND, with WU, WL and RCNT. -/
  | ksRound (work : KsWork) (rcnt : BitVec 5)
  /-- ENC_ROUND, with BS and RCNT. -/
  | encRound (bs : Block) (rcnt : BitVec 5)
  /-- REFILL, with BS. -/
  | refill (bs : Block)
  /-- BYTE, with the buffer and position counter that the byte step works on. -/
  | byte (ks : Vector Byte 8) (kpos : BitVec 4)
  /-- COMPLETE (and, for a byte command, the completion that R210 calls IDLE). -/
  | complete (p : Pending)
deriving DecidableEq, Repr

/-- A command that was accepted and has not completed (20_memory.md R53, R55). -/
structure InFlight where
  /-- CW: the latched command word (R35). -/
  cw : CmdWord
  /-- CD: the latched command data (R35). -/
  cd : CmdData
  /-- How many edges come before the completion edge: 0 when the next edge completes the command (R55). -/
  left : Nat
  /-- The sequencer's hidden registers (R35). -/
  seq : Sequencer
deriving DecidableEq, Repr

/-- RK, KEYED, KS and CFB_RDY (10_state.md R21, R23, R24, R26), stored once: which of the two tables hold values, and the
values. R36 and R37 give the tables no value until a set-up command writes every entry, and call an entry unwritten until
then; each flag says which command has done so. The views `State.rk`, `State.keyed`, `State.ks` and `State.cfbRdy` give
each of the four back (log 1). -/
inductive CipherState where
  /-- KEYED = 0: no set-up command since reset. RK and KS are unwritten. -/
  | unkeyed
  /-- KEYED = 1, CFB_RDY = 0: RK holds a schedule, RK[1] at index 0. KS is what a stream that `blk.setkey` ended left behind,
  or none where no `cfb.setkey` has written it since reset. -/
  | keyed (rk : Vector Block 27) (ks : Option (Vector Byte 8))
  /-- KEYED = 1, CFB_RDY = 1: RK holds a schedule, and KS the buffer of the stream set up with it. -/
  | streaming (rk : Vector Block 27) (ks : Vector Byte 8)
deriving DecidableEq, Repr

/-- The state of the core (10_state.md R20, R35), the `done` output register, and the host's drive of the input ports. -/
structure State where
  /-- RK[1..27], KEYED, KS[0..7] and CFB_RDY (R21, R23, R24, R26). -/
  cipher : CipherState
  /-- KPOS (R25). -/
  kpos : BitVec 4
  /-- ERR (R31). -/
  err : ErrCode
  /-- RESULT (R28). -/
  result : Block
  /-- The `done` output (20_memory.md R55). -/
  done : Bool
  /-- The command in flight with the hidden state of R35; BUSY is 1 exactly when there is one (R30). -/
  inflight : Option InFlight
  /-- The model's own: what the host drives at the coming rising edges, the next edge first (log 3). -/
  pins : List Pins
  /-- The model's own: how many commands were accepted, so that each may have a latency of its own (log 5). -/
  draws : Nat
deriving DecidableEq, Repr

/-- The part of the state that 10_state.md R20 names as the core's, apart from BUSY: what a command can read or write. -/
structure Visible where
  rk : Option (Vector Block 27)
  keyed : Bool
  ks : Option (Vector Byte 8)
  kpos : BitVec 4
  cfbRdy : Bool
  err : ErrCode
  result : Block
deriving DecidableEq, Repr

/-- The values of R36 on everything the spec names, and `done` = 0 (R271), with a given drive and count, which
reset does not touch. -/
def State.afterReset (pins : List Pins) (draws : Nat) : State :=
  { cipher := .unkeyed, kpos := 8, err := .none, result := 0, done := false, inflight := none, pins := pins,
    draws := draws }

/-- The machine right after reset (R36): nothing in flight, and a host that drives nothing (log 4, log 7). -/
def State.reset : State := State.afterReset [] 0

/-- Why the model stops. The core itself never does: every accepted command completes (44_control.md R231). The one reason
is for a state that the spec says does not occur, and no reachable state raises it. -/
inductive Fault where
  /-- A byte command meets a KPOS of 9 to 15, which never occurs (R25; row 16): raised by `cfb.enc` and `cfb.dec`. Safe. -/
  | kposOutOfRange
deriving DecidableEq, Repr

/-- Why the model has no meaning for a command. No meaning of this model refuses. -/
inductive Refusal where
  /-- The command has no meaning in the model yet; raised by an arm of exec only. Safe. No arm raises it. -/
  | notModelled (mnemonic : String)
deriving DecidableEq, Repr

end Sys2Proof.Machine
end

