-- ==== Sys2Proof/Machine/Flags.lean ====
section
/-! DEFINITION. The tables and flags of the cipher state, each read by its own name (10_state.md R21 to R26), and the STATUS
value that the host reads (R29 to R33, 60_exceptions.md R242). -/

namespace Sys2Proof.Machine

/-- The 4-bit code of an error (R242). -/
def ErrCode.code : ErrCode → BitVec 4
  | .none => 0
  | .illegalOp => 1
  | .rsvdField => 2
  | .badIndex => 3
  | .noKey => 4
  | .noCfb => 5
  | .unimplemented => 6

/-- BUSY: a command is executing (R30). -/
def State.busy (s : State) : Bool := s.inflight.isSome

/-- RK[1..27]; none while its entries are unwritten (R21, R37). -/
def CipherState.rk : CipherState → Option (Vector Block 27)
  | .unkeyed => none
  | .keyed rk _ => some rk
  | .streaming rk _ => some rk

/-- KS[0..7]; none while its entries are unwritten (R24, R37). -/
def CipherState.ks : CipherState → Option (Vector Byte 8)
  | .unkeyed => none
  | .keyed _ ks => ks
  | .streaming _ ks => some ks

/-- The round-key table (R21); none while it is unwritten. -/
def State.rk (s : State) : Option (Vector Block 27) := s.cipher.rk

/-- The keystream buffer (R24); none while it is unwritten. -/
def State.ks (s : State) : Option (Vector Byte 8) := s.cipher.ks

/-- KEYED: RK holds the schedule of some master key (R23). -/
def State.keyed (s : State) : Bool :=
  match s.cipher with
  | .unkeyed => false
  | .keyed _ _ | .streaming _ _ => true

/-- CFB_RDY: KS was initialised by `cfb.setkey`, and RK still holds the schedule of that command's key (R26). -/
def State.cfbRdy (s : State) : Bool :=
  match s.cipher with
  | .unkeyed | .keyed _ _ => false
  | .streaming _ _ => true

/-- The architectural registers of a state (10_state.md R20). -/
def State.arch (s : State) : Visible :=
  { rk := s.rk, keyed := s.keyed, ks := s.ks, kpos := s.kpos, cfbRdy := s.cfbRdy, err := s.err, result := s.result }

/-- STATUS, bit 15 first: reserved, KPOS, ERR, reserved, CFB_RDY, KEYED, BUSY (R29). -/
def State.status (s : State) : BitVec 16 :=
  0#4 ++ s.kpos ++ s.err.code ++ 0#1 ++ BitVec.ofBool s.cfbRdy ++ BitVec.ofBool s.keyed ++ BitVec.ofBool s.busy

end Sys2Proof.Machine
end

