-- ==== Sys2Proof/Machine/Ports.lean ====
section
/-! DEFINITION. The ports of the core (20_memory.md R51) and what it drives on its outputs (R54, R55). -/

namespace Sys2Proof.Machine

/-- The core's ports: exactly these (R51). -/
inductive Port where
  | clk
  | rst
  | cmdValid
  | cmdReady
  | cmdWord
  | cmdData
  | done
  | result
  | status
deriving DecidableEq, Repr

/-- The width of a port in bits (R51). -/
def Port.width : Port → Nat
  | .clk | .rst | .cmdValid | .cmdReady | .done => 1
  | .cmdWord => 32
  | .cmdData => 192
  | .result => 64
  | .status => 16

/-- Whether the core drives the port (R51). -/
def Port.isOutput : Port → Bool
  | .cmdReady | .done | .result | .status => true
  | .clk | .rst | .cmdValid | .cmdWord | .cmdData => false

/-- What the host drives at the next rising edge; nothing when its script is used up (log 3). -/
def State.pin (s : State) : Pins := s.pins.headD Pins.idle

/-- `cmd_ready = 1` exactly when `rst = 0` and `BUSY = 0` (R54). -/
def State.cmdReady (s : State) : Bool := !s.pin.rst && !s.busy

/-- The values on the output ports (R51). -/
structure Outputs where
  cmdReady : Bool
  done : Bool
  result : Block
  status : BitVec 16
deriving DecidableEq, Repr

/-- What the core drives on its outputs; looking at them changes nothing (20_memory.md R69). -/
def State.outputs (s : State) : Outputs :=
  { cmdReady := s.cmdReady, done := s.done, result := s.result, status := s.status }

end Sys2Proof.Machine
end

