-- ==== Sys2Proof/Config.lean ====
section
/-! DEFINITION. What an implementation or a platform fixes and the spec leaves open (00_scope.md R6, 93 rows 7 to 9).
Each is a constant without a body: a proof about it holds whatever it is. -/

namespace Sys2Proof.Config

/-- `LAT(op, state)` less 1, so that every latency is at least 1 (R6, R55). DESIGN CHOICE (log 5): of what "state" may
mean, it is the architectural state of 10_state.md R20 at the acceptance edge, and no port and no hidden register; the
number is how many commands were accepted before, so that LAT need not be constant. -/
opaque latBeyondOne : BitVec 8 → Machine.Visible → Nat → Nat

/-- How many steps of the reference sequencing an implementation takes at one edge of a command in flight
(42_block_cipher.md R164: "any number of iterations per cycle"). DESIGN CHOICE (log 6): it may depend on the command in
flight with its hidden state, on the architectural state and on the number of acceptances, and on no port. -/
opaque pace : Machine.InFlight → Machine.Visible → Nat → Nat

/-- `PLATFORM_MAP`: where a platform places a port in its own address space, if it does (R6, R50). Nothing in the
core depends on it (log 15). -/
opaque platformMap : Machine.Port → Option Nat

end Sys2Proof.Config
end

