-- ==== Sys2Proof/Machine/Constants.lean ====
section
/-! DEFINITION. The constants of the hardware (00_scope.md R5). -/

namespace Sys2Proof.Machine

/-- `POLY` = x^8+x^4+x^3+x^2+1 (R5). -/
def poly : BitVec 9 := 0x11D

/-- `SBOX_MUL(i)` = 0xC0 XOR i: the constant part (R5). -/
def sboxMulBase : Byte := 0xC0

/-- `SBOX_ADD` (R5). -/
def sboxAdd : Byte := 0x63

/-- `PERM`: output byte j is input byte PERM[j] (R5, 41_layers.md R135). -/
def permTable : Vector Nat 8 := #v[5, 0, 3, 6, 1, 4, 7, 2]

/-- The first of `MIX_C` (R5). -/
def mixC0 : Byte := 2

/-- The second of `MIX_C` (R5). -/
def mixC1 : Byte := 3

/-- `ROT`, the right rotation of the 128-bit key-schedule state (R5). -/
def rot : Nat := 29

/-- `ROUNDS` (R5). -/
def rounds : Nat := 27

/-- The value of KPOS that says the buffer is spent (10_state.md R25). -/
def kposSpent : BitVec 4 := 8

end Sys2Proof.Machine
end

