-- ==== Sys2Proof/Machine/Operands.lean ====
section
/-! DEFINITION. Operand forms: the fields of the command word (30_encoding.md R81) and of the command data (R82),
the byte views of 64-bit values (00_scope.md R9, 20_memory.md R64), and the placement of a byte result (R89). -/

namespace Sys2Proof.Machine

/-- The opcode field: cmd_word[7:0] (R81). -/
def opField (cw : CmdWord) : BitVec 8 := cw.extractLsb' 0 8

/-- The S-box index field: cmd_word[11:8] (R81). -/
def idxField (cw : CmdWord) : BitVec 4 := cw.extractLsb' 8 4

/-- The reserved field: cmd_word[31:12] (R81). -/
def rsvdField (cw : CmdWord) : BitVec 20 := cw.extractLsb' 12 20

/-- Operand A: cmd_data[7:0] (R82). -/
def fieldA (cd : CmdData) : Byte := cd.extractLsb' 0 8

/-- Operand B: cmd_data[15:8] (R82). -/
def fieldB (cd : CmdData) : Byte := cd.extractLsb' 8 8

/-- Operand X: cmd_data[63:0] (R82). -/
def fieldX (cd : CmdData) : Block := cd.extractLsb' 0 64

/-- The IV: cmd_data[63:0] (R82). -/
def fieldIV (cd : CmdData) : Block := cd.extractLsb' 0 64

/-- The master key: cmd_data[191:64] (R82). -/
def fieldK (cd : CmdData) : Key := cd.extractLsb' 64 128

/-- `byte_j(x) = x[63-8j : 56-8j]`, for j in 0..7: byte 0 is the most significant (R9, R64). -/
def byteAt (j : Nat) (x : Block) : Byte := x.extractLsb' (56 - 8 * j) 8

/-- `pack(b_0, …, b_7)`: the 64-bit value with these bytes, b_0 most significant (R9). -/
def pack (b0 b1 b2 b3 b4 b5 b6 b7 : Byte) : Block :=
  b0 ++ b1 ++ b2 ++ b3 ++ b4 ++ b5 ++ b6 ++ b7

/-- `unpack(x) = [byte_0(x), …, byte_7(x)]` (R9), in the form of the keystream buffer (R66). -/
def unpack (x : Block) : Vector Byte 8 :=
  #v[byteAt 0 x, byteAt 1 x, byteAt 2 x, byteAt 3 x, byteAt 4 x, byteAt 5 x, byteAt 6 x, byteAt 7 x]

/-- The block `pack(KS[0], …, KS[7])` of a buffer (R66). -/
def packBytes (v : Vector Byte 8) : Block :=
  pack v[0] v[1] v[2] v[3] v[4] v[5] v[6] v[7]

/-- The upper half of the key-schedule input, `pack(K_0, …, K_7)`: key bits 127:64 (R65). -/
def keyUpper (k : Key) : Block := k.extractLsb' 64 64

/-- The lower half of the key-schedule input, `pack(K_8, …, K_15)`: key bits 63:0 (R65). -/
def keyLower (k : Key) : Block := k.extractLsb' 0 64

/-- An 8-bit result in RESULT[7:0], with RESULT[63:8] = 0 (R89). -/
def zextByte (b : Byte) : Block := b.setWidth 64

end Sys2Proof.Machine
end

