-- ==== Sys2Proof/Machine/Ops.lean ====
section
/-! DEFINITION. The operations that commands and edges share: completion (20_memory.md R55, 44_control.md R231), raising
an error (60_exceptions.md R241), the reads and writes of the cipher state (10_state.md R38), and the register
updates of each kind of rising edge (20_memory.md R53 to R55, 70_reset_and_hazards.md R270). -/

namespace Sys2Proof.Machine

/-- A command completes with success: RESULT and ERR = NONE are written, BUSY is cleared with the hidden state, and
`done` rises (R231, R55, R89). -/
def State.complete (v : Block) (s : State) : State :=
  { s with result := v, err := .none, done := true, inflight := none }

/-- `raise Err(code)`: the command completes with the code and RESULT = 0, and no other state changes (R241). -/
def State.raiseErr (c : ErrCode) (s : State) : State :=
  { s with result := 0, err := c, done := true, inflight := none }

/-- `blk.setkey` installs a key schedule: all 27 entries of RK, and KEYED = 1. It ends any stream, CFB_RDY = 0, and leaves KS
and KPOS as they are (10_state.md R22, R23, 42_block_cipher.md R167). -/
def State.installKeys (rk : Vector Block 27) (s : State) : State :=
  { s with cipher := .keyed rk s.ks }

/-- `cfb.setkey` installs a key schedule and begins a stream: the IV in KS, KPOS = 8, KEYED and CFB_RDY (43_cfb.md R201). -/
def State.beginStream (rk : Vector Block 27) (iv : Vector Byte 8) (s : State) : State :=
  { s with cipher := .streaming rk iv, kpos := 8 }

/-- The buffer and the position counter after a byte command of a stream under the table rk (43_cfb.md R203, R204). -/
def State.writeStream (rk : Vector Block 27) (ks : Vector Byte 8) (kpos : BitVec 4) (s : State) : State :=
  { s with cipher := .streaming rk ks, kpos := kpos }

/-- The edge uses up one sample of the host's script (log 3). -/
def State.sampled (s : State) : State :=
  { s with pins := s.pins.tail }

/-- A command is latched, to complete after `left` more edges (R53). BUSY becomes 1. -/
def State.latch (cw : CmdWord) (cd : CmdData) (left : Nat) (seq : Sequencer) (s : State) : State :=
  { s with inflight := some { cw := cw, cd := cd, left := left, seq := seq } }

/-- An edge at which nothing is accepted and nothing completes: `done` falls (R55). -/
def State.idleEdge (s : State) : State :=
  { s with done := false }

/-- An edge between acceptance and completion: only the hidden state and the count of edges move (R56). -/
def State.waitEdge (f : InFlight) (left : Nat) (seq : Sequencer) (s : State) : State :=
  { s with done := false, inflight := some { f with left := left, seq := seq } }

/-- The acceptance edge: the command is latched, and the acceptance is counted (R53; log 5). -/
def State.acceptEdge (cw : CmdWord) (cd : CmdData) (left : Nat) (seq : Sequencer) (s : State) : State :=
  { s with done := false, inflight := some { cw := cw, cd := cd, left := left, seq := seq }, draws := s.draws + 1 }

/-- An edge with rst = 1: the values of 10_state.md R36, whatever the core was doing. A command in flight is aborted with
no effect and no `done` (R270). -/
def State.resetEdge (s : State) : State :=
  State.afterReset s.pins s.draws

end Sys2Proof.Machine
end

