-- ==== Sys2Proof/Machine/GfArith.lean ====
section
/-! DEFINITION. The GF(2^8) multiplier and adder and their commands (40_gf_arith.md). -/

namespace Sys2Proof.Machine

/-- One iteration of the multiplier for one bit of b: shift, reduce when bit 8 overflows, add a (R110). -/
def gmulStep (a : Byte) (bit : Bool) (p : BitVec 9) : BitVec 9 :=
  let shifted := p <<< 1
  let reduced := if shifted.getLsbD 8 then shifted ^^^ poly else shifted
  if bit then reduced ^^^ a.setWidth 9 else reduced

/-- The iterations for the low n bits of b, most significant first (R110). -/
def gmulLoop (a b : Byte) : Nat → BitVec 9 → BitVec 9
  | 0, p => p
  | n + 1, p => gmulLoop a b n (gmulStep a (b.getLsbD n) p)

/-- `gmul(a, b)`, the product in GF(2^8) (R110, R111). -/
def gmul (a b : Byte) : Byte := (gmulLoop a b 8 0).setWidth 8

/-- Addition in GF(2^8) (R112). -/
def gadd (a b : Byte) : Byte := a ^^^ b

/-- `gf.mul` (R113). -/
def execGfMul (a b : Byte) (s : State) : Host.Outcome State Fault Refusal :=
  .next (s.complete (zextByte (gmul a b)))

/-- `gf.add` (R114). -/
def execGfAdd (a b : Byte) (s : State) : Host.Outcome State Fault Refusal :=
  .next (s.complete (zextByte (gadd a b)))

end Sys2Proof.Machine
end

