-- ==== Sys2Proof/Machine/Layers.lean ====
section
/-! DEFINITION. The S-box array, the permutation, the mix network, the round transform and their commands
(41_layers.md). -/

namespace Sys2Proof.Machine

/-- `sbox(i, a)`, defined by the spec for i in 1..8 (R130). -/
def sbox (i : BitVec 4) (a : Byte) : Byte :=
  gmul (sboxMulBase ^^^ i.setWidth 8) a ^^^ sboxAdd

/-- The substitution layer: S-box j+1 on byte j (R134). -/
def subl (x : Block) : Block :=
  pack (sbox 1 (byteAt 0 x)) (sbox 2 (byteAt 1 x)) (sbox 3 (byteAt 2 x)) (sbox 4 (byteAt 3 x))
    (sbox 5 (byteAt 4 x)) (sbox 6 (byteAt 5 x)) (sbox 7 (byteAt 6 x)) (sbox 8 (byteAt 7 x))

/-- The permutation layer: output byte j is input byte PERM[j] (R135). -/
def perml (x : Block) : Block :=
  pack (byteAt permTable[0] x) (byteAt permTable[1] x) (byteAt permTable[2] x) (byteAt permTable[3] x)
    (byteAt permTable[4] x) (byteAt permTable[5] x) (byteAt permTable[6] x) (byteAt permTable[7] x)

/-- The first byte c of a mixed pair (R136). -/
def mixFst (a b : Byte) : Byte := gmul mixC0 a ^^^ b

/-- The second byte d of a mixed pair (R136). -/
def mixSnd (a b : Byte) : Byte := a ^^^ gmul mixC1 b

/-- The mix layer, on the four byte pairs of a block independently (R136). -/
def mixl (x : Block) : Block :=
  pack (mixFst (byteAt 0 x) (byteAt 1 x)) (mixSnd (byteAt 0 x) (byteAt 1 x))
    (mixFst (byteAt 2 x) (byteAt 3 x)) (mixSnd (byteAt 2 x) (byteAt 3 x))
    (mixFst (byteAt 4 x) (byteAt 5 x)) (mixSnd (byteAt 4 x) (byteAt 5 x))
    (mixFst (byteAt 6 x) (byteAt 7 x)) (mixSnd (byteAt 6 x) (byteAt 7 x))

/-- The round transform: substitution, permutation, mix (R138). -/
def rt (x : Block) : Block := mixl (perml (subl x))

/-- `sbox` (R140): BAD_INDEX for an index outside 1..8. -/
def execSbox (i : BitVec 4) (a : Byte) (s : State) : Host.Outcome State Fault Refusal :=
  if i.toNat < 1 ∨ i.toNat > 8 then .next (s.raiseErr .badIndex)
  else .next (s.complete (zextByte (sbox i a)))

/-- `sub` (R141). -/
def execSub (x : Block) (s : State) : Host.Outcome State Fault Refusal :=
  .next (s.complete (subl x))

/-- `perm` (R142). -/
def execPerm (x : Block) (s : State) : Host.Outcome State Fault Refusal :=
  .next (s.complete (perml x))

/-- `mix` (R143). -/
def execMix (x : Block) (s : State) : Host.Outcome State Fault Refusal :=
  .next (s.complete (mixl x))

/-- `rt` (R144). -/
def execRt (x : Block) (s : State) : Host.Outcome State Fault Refusal :=
  .next (s.complete (rt x))

end Sys2Proof.Machine
end

