-- ==== Sys2Proof/Machine/BlockCipher.lean ====
section
/-! DEFINITION. The key schedule, the 27-round block cipher and their commands (42_block_cipher.md). -/

namespace Sys2Proof.Machine

/-- `rotr128_29`: the 128-bit value U ‖ L rotated right by 29 bits, on its halves (00_scope.md R10, R161). -/
def rotr128 (u l : Block) : Block × Block :=
  ((u >>> rot) ||| (l <<< (64 - rot)), (l >>> rot) ||| (u <<< (64 - rot)))

/-- The key schedule before its first round: WU and WL from the master key, no round key made (R160). -/
def ksInit (k : Key) : KsWork := { wu := keyUpper k, wl := keyLower k, made := [] }

/-- Round r of the key schedule: rotate, transform the upper half, which is RK[r], then the round number into WL
(R160, R162). -/
def ksRound (r : BitVec 5) (w : KsWork) : KsWork :=
  let turned := rotr128 w.wu w.wl
  let key := rt turned.1
  { wu := key, wl := turned.2 ^^^ r.setWidth 64, made := w.made ++ [key] }

/-- The next n rounds of the key schedule, from round r (R160). -/
def ksRounds : Nat → BitVec 5 → KsWork → KsWork
  | 0, _, w => w
  | n + 1, r, w => ksRounds n (r + 1) (ksRound r w)

/-- Every round makes one round key. -/
theorem ksRounds_made_length (n : Nat) (r : BitVec 5) (w : KsWork) :
    (ksRounds n r w).made.length = w.made.length + n := by
  induction n generalizing r w with
  | zero => rfl
  | succ n ih => simp only [ksRounds, ih, ksRound, List.length_append, List.length_singleton]; omega

/-- `KeySchedule(K)`: the 27 round keys, RK[1] first (R160, R163). -/
def keySchedule (k : Key) : Vector Block 27 :=
  ⟨(ksRounds rounds 1 (ksInit k)).made.toArray, by
    rw [List.size_toArray, ksRounds_made_length]; rfl⟩

/-- One round of block encryption: add the round key, then the round transform (R165). -/
def encRound (bs key : Block) : Block := rt (bs ^^^ key)

/-- `Encrypt(RK, x)`: the rounds r = 1..27 in order, with no whitening key after them (R165, R166). -/
def encrypt (rk : Vector Block 27) (x : Block) : Block := rk.toList.foldl encRound x

/-- `blk.setkey` (R167). -/
def execBlkSetkey (k : Key) (s : State) : Host.Outcome State Fault Refusal :=
  .next ((s.installKeys (keySchedule k)).complete 0)

/-- `blk.enc` (R168): NO_KEY while KEYED = 0, else the encryption under RK, in or out of a stream. -/
def execBlkEnc (x : Block) (s : State) : Host.Outcome State Fault Refusal :=
  match s.cipher with
  | .unkeyed => .next (s.raiseErr .noKey)
  | .keyed rk _ => .next (s.complete (encrypt rk x))
  | .streaming rk _ => .next (s.complete (encrypt rk x))

/-- `blk.dec` (R169): UNIMPLEMENTED, whatever the state. -/
def execBlkDec (s : State) : Host.Outcome State Fault Refusal :=
  .next (s.raiseErr .unimplemented)

end Sys2Proof.Machine
end

