-- ==== Sys2Proof/Machine/Cfb.lean ====
section
/-! DEFINITION. The CFB stream cipher and its commands (43_cfb.md). -/

namespace Sys2Proof.Machine

/-- Which way a byte command runs; the two differ only in the byte that is fed back (R204). -/
inductive Direction where
  | enc
  | dec
deriving DecidableEq, Repr

/-- The ciphertext byte, which is fed back: the output when encrypting (R203), the input when decrypting (R204). -/
def Direction.feedback (d : Direction) (input output : Byte) : Byte :=
  match d with
  | .enc => output
  | .dec => input

/-- The buffer after `Regen()`: the block encryption of its own contents (R202). -/
def regen (rk : Vector Block 27) (ks : Vector Byte 8) : Vector Byte 8 :=
  unpack (encrypt rk (packBytes ks))

/-- The buffer and position that a byte command works on: regenerated, with KPOS = 0, when KPOS is 8 at its start, else as
they are (R202, R203). -/
def streamBuffer (rk : Vector Block 27) (ks : Vector Byte 8) (kpos : BitVec 4) : Vector Byte 8 × BitVec 4 :=
  if kpos = kposSpent then (regen rk ks, 0) else (ks, kpos)

/-- The byte step: output = input ⊕ KS[KPOS], the ciphertext byte into KS[KPOS], KPOS + 1 (R203, R204). None when KPOS is
no index of the buffer. -/
def byteStep (d : Direction) (a : Byte) (ks : Vector Byte 8) (k : BitVec 4) :
    Option (Byte × Vector Byte 8 × BitVec 4) :=
  if h : k.toNat < 8 then
    some (a ^^^ ks[k.toNat], ks.set k.toNat (d.feedback a (a ^^^ ks[k.toNat])), k + 1)
  else none

/-- A byte command (R203, R204): NO_CFB while CFB_RDY = 0, else regeneration where it is due, then the byte step. The fault is
for a KPOS that never occurs (10_state.md R25; log 9). -/
def cfbByte (d : Direction) (a : Byte) (s : State) : Host.Outcome State Fault Refusal :=
  match s.cipher with
  | .unkeyed | .keyed _ _ => .next (s.raiseErr .noCfb)
  | .streaming rk ks =>
    match byteStep d a (streamBuffer rk ks s.kpos).1 (streamBuffer rk ks s.kpos).2 with
    | none => .fault .kposOutOfRange
    | some (out, ks', k') => .next ((s.writeStream rk ks' k').complete (zextByte out))

/-- `cfb.setkey` (R201). -/
def execCfbSetkey (k : Key) (iv : Block) (s : State) : Host.Outcome State Fault Refusal :=
  .next ((s.beginStream (keySchedule k) (unpack iv)).complete 0)

/-- `cfb.enc` (R203). -/
def execCfbEnc (a : Byte) (s : State) : Host.Outcome State Fault Refusal :=
  cfbByte .enc a s

/-- `cfb.dec` (R204). -/
def execCfbDec (a : Byte) (s : State) : Host.Outcome State Fault Refusal :=
  cfbByte .dec a s

end Sys2Proof.Machine
end

