-- ==== Sys2Proof/Machine/Control.lean ====
section
/-! DEFINITION. The control command (44_control.md). -/

namespace Sys2Proof.Machine

/-- `nop` (R230): RESULT = 0 and ERR = NONE, nothing else. -/
def execNop (s : State) : Host.Outcome State Fault Refusal :=
  .next (s.complete 0)

end Sys2Proof.Machine
end

