-- ==== Sys2Proof/Syntax.lean ====
section
/-! DEFINITION. The commands of the core, one constructor per row of the opcode table (30_encoding.md R84).
A constructor's arguments are the fields the command reads, and no others (R83). -/

namespace Sys2Proof

/-- A command: the spec's "instruction" (R13, R84). -/
inductive Instr where
  /-- `nop` (R230). -/
  | nop
  /-- `gf.mul a, b` (R113). -/
  | gfMul (a b : Byte)
  /-- `gf.add a, b` (R114). -/
  | gfAdd (a b : Byte)
  /-- `sbox i, a` (R140); i is the 4-bit IDX field, any value, legal in 1..8. -/
  | sbox (i : BitVec 4) (a : Byte)
  /-- `sub x` (R141). -/
  | sub (x : Block)
  /-- `perm x` (R142). -/
  | perm (x : Block)
  /-- `mix x` (R143). -/
  | mix (x : Block)
  /-- `rt x` (R144). -/
  | rt (x : Block)
  /-- `blk.setkey k` (R167). -/
  | blkSetkey (k : Key)
  /-- `blk.enc x` (R168). -/
  | blkEnc (x : Block)
  /-- `blk.dec` (R169): no operand is read. -/
  | blkDec
  /-- `cfb.setkey k, iv` (R201). -/
  | cfbSetkey (k : Key) (iv : Block)
  /-- `cfb.enc a` (R203). -/
  | cfbEnc (a : Byte)
  /-- `cfb.dec a` (R204). -/
  | cfbDec (a : Byte)
deriving DecidableEq, Repr

/-- What the command port carries: one command word and 192 bits of data (R80). -/
structure Command where
  word : CmdWord
  data : CmdData
deriving DecidableEq, Repr

end Sys2Proof
end

