-- ==== Sys2Proof/Machine/Dispatch.lean ====
section
/-! DEFINITION. The case of `Execute` (44_control.md R231): one arm per command. -/

namespace Sys2Proof.Machine

def exec (i : Instr) (s : State) : Host.Outcome State Fault Refusal :=
  match i with
  | .nop => Sys2Proof.Machine.execNop s
  | .gfMul a b => Sys2Proof.Machine.execGfMul a b s
  | .gfAdd a b => Sys2Proof.Machine.execGfAdd a b s
  | .sbox n a => Sys2Proof.Machine.execSbox n a s
  | .sub x => Sys2Proof.Machine.execSub x s
  | .perm x => Sys2Proof.Machine.execPerm x s
  | .mix x => Sys2Proof.Machine.execMix x s
  | .rt x => Sys2Proof.Machine.execRt x s
  | .blkSetkey k => Sys2Proof.Machine.execBlkSetkey k s
  | .blkEnc x => Sys2Proof.Machine.execBlkEnc x s
  | .blkDec => Sys2Proof.Machine.execBlkDec s
  | .cfbSetkey k iv => Sys2Proof.Machine.execCfbSetkey k iv s
  | .cfbEnc a => Sys2Proof.Machine.execCfbEnc a s
  | .cfbDec a => Sys2Proof.Machine.execCfbDec a s

end Sys2Proof.Machine
end

