-- ==== Sys2Proof/WellFormed.lean ====
section
/-! DEFINITION. Which commands have legal operands. Every field has a fixed width, so that every value of every
field is a legal input (20_memory.md R57), except the S-box index: its legal values are 1..8 (30_encoding.md R81).
An ill-formed command still decodes and still runs: it raises BAD_INDEX (41_layers.md R140; log 10). -/

namespace Sys2Proof

/-- The index names one of the eight S-boxes (R81, R130). -/
def legalIndex (i : BitVec 4) : Bool :=
  decide (1 ≤ i.toNat) && decide (i.toNat ≤ 8)

/-- The command's operands are legal values of their fields (R57, R81). -/
def Instr.wellFormed : Instr → Bool
  | .sbox i _ => legalIndex i
  | .nop | .gfMul _ _ | .gfAdd _ _ | .sub _ | .perm _ | .mix _ | .rt _ => true
  | .blkSetkey _ | .blkEnc _ | .blkDec | .cfbSetkey _ _ | .cfbEnc _ | .cfbDec _ => true

end Sys2Proof
end

