-- ==== Sys2Proof/Decode.lean ====
section
/-! DEFINITION. Decoding (30_encoding.md R84 to R87, R90) and encoding (R84, R91) of commands. -/

namespace Sys2Proof

/-- Why a command word is no command: the two errors that decoding raises (R90). -/
inductive DecodeError where
  /-- OP is not in the opcode map (R85). -/
  | illegalOp
  /-- RSVD is not 0, or IDX is not 0 for a command other than `sbox` (R86, R87). -/
  | rsvdField
deriving DecidableEq, Repr

/-- The opcode of each command (R84). -/
def Instr.opcode : Instr → BitVec 8
  | .nop => 0x00#8
  | .gfMul _ _ => 0x01#8
  | .gfAdd _ _ => 0x02#8
  | .sbox _ _ => 0x08#8
  | .sub _ => 0x09#8
  | .perm _ => 0x0A#8
  | .mix _ => 0x0B#8
  | .rt _ => 0x0C#8
  | .blkSetkey _ => 0x10#8
  | .blkEnc _ => 0x11#8
  | .blkDec => 0x12#8
  | .cfbSetkey _ _ => 0x20#8
  | .cfbEnc _ => 0x21#8
  | .cfbDec _ => 0x22#8

/-- The command an opcode names, with the fields it reads (R82, R84); none for an illegal opcode (R85). -/
def commandOf (op : BitVec 8) (idx : BitVec 4) (cd : CmdData) : Option Instr :=
  if op = 0x00#8 then some .nop
  else if op = 0x01#8 then some (.gfMul (Machine.fieldA cd) (Machine.fieldB cd))
  else if op = 0x02#8 then some (.gfAdd (Machine.fieldA cd) (Machine.fieldB cd))
  else if op = 0x08#8 then some (.sbox idx (Machine.fieldA cd))
  else if op = 0x09#8 then some (.sub (Machine.fieldX cd))
  else if op = 0x0A#8 then some (.perm (Machine.fieldX cd))
  else if op = 0x0B#8 then some (.mix (Machine.fieldX cd))
  else if op = 0x0C#8 then some (.rt (Machine.fieldX cd))
  else if op = 0x10#8 then some (.blkSetkey (Machine.fieldK cd))
  else if op = 0x11#8 then some (.blkEnc (Machine.fieldX cd))
  else if op = 0x12#8 then some .blkDec
  else if op = 0x20#8 then some (.cfbSetkey (Machine.fieldK cd) (Machine.fieldIV cd))
  else if op = 0x21#8 then some (.cfbEnc (Machine.fieldA cd))
  else if op = 0x22#8 then some (.cfbDec (Machine.fieldA cd))
  else none

/-- Decode one latched command, with the checks in the order of R90: the opcode, then RSVD, then IDX. -/
def decode (cw : CmdWord) (cd : CmdData) : Except DecodeError Instr :=
  match commandOf (Machine.opField cw) (Machine.idxField cw) cd with
  | none => .error .illegalOp
  | some i =>
    if Machine.rsvdField cw ≠ 0#20 then .error .rsvdField
    else if Machine.opField cw ≠ 0x08#8 ∧ Machine.idxField cw ≠ 0#4 then .error .rsvdField
    else .ok i

/-- The IDX field of each command's word: the index for `sbox`, 0 for every other command (R84). -/
def Instr.indexField : Instr → BitVec 4
  | .sbox i _ => i
  | .nop | .gfMul _ _ | .gfAdd _ _ | .sub _ | .perm _ | .mix _ | .rt _ => 0
  | .blkSetkey _ | .blkEnc _ | .blkDec | .cfbSetkey _ _ | .cfbEnc _ | .cfbDec _ => 0

/-- The data of each command, every bit it does not read being 0 (R91). -/
def Instr.dataField : Instr → CmdData
  | .nop | .blkDec => 0
  | .gfMul a b | .gfAdd a b => (b.setWidth 192 <<< 8) ||| a.setWidth 192
  | .sbox _ a | .cfbEnc a | .cfbDec a => a.setWidth 192
  | .sub x | .perm x | .mix x | .rt x | .blkEnc x => x.setWidth 192
  | .blkSetkey k => k.setWidth 192 <<< 64
  | .cfbSetkey k iv => (k.setWidth 192 <<< 64) ||| iv.setWidth 192

/-- The command word and data of a command (R84, R91). -/
def encode (i : Instr) : Command :=
  { word := (i.indexField.setWidth 32 <<< 8) ||| i.opcode.setWidth 32, data := i.dataField }

/-- The bits of cmd_data that a command with this opcode reads: the fields of its row of R84 (R82); all the
others are ignored (R83). -/
def readMask (op : BitVec 8) : CmdData :=
  if op = 0x01#8 ∨ op = 0x02#8 then 0xFFFF#192
  else if op = 0x08#8 ∨ op = 0x21#8 ∨ op = 0x22#8 then 0xFF#192
  else if op = 0x09#8 ∨ op = 0x0A#8 ∨ op = 0x0B#8 ∨ op = 0x0C#8 ∨ op = 0x11#8 then 0xFFFFFFFFFFFFFFFF#192
  else if op = 0x10#8 then 0xFFFFFFFFFFFFFFFFFFFFFFFFFFFFFFFF0000000000000000#192
  else if op = 0x20#8 then 0xFFFFFFFFFFFFFFFFFFFFFFFFFFFFFFFFFFFFFFFFFFFFFFFF#192
  else 0#192

/-- The command whose nbits bits are w, bit 0 the least significant bit of the command word; bits 32 and up, which
no row of the table has, would be those of cmd_data (log 8), and every bit above nbits is 0. -/
def commandOfTable (nbits w : Nat) : Command :=
  { word := BitVec.ofNat 32 (w % 2 ^ nbits), data := BitVec.ofNat 192 ((w % 2 ^ nbits) / 2 ^ 32) }

/-- What the decoder reads from an instruction numbered as the opcode table numbers its bits. -/
def decodeTableWord (nbits w : Nat) : Option Instr :=
  match decode (commandOfTable nbits w).word (commandOfTable nbits w).data with
  | .ok i => some i
  | .error _ => none

end Sys2Proof
end

