-- ==== Sys2Proof/Machine/Sequencer.lean ====
section
/-! DEFINITION. The reference sequencing of the key schedule (42_block_cipher.md R164), of block encryption (R170) and of
a byte command (43_cfb.md R210), on the hidden registers of 10_state.md R35. Nothing here reaches an output: a command's
effects are those of its own rule (20_memory.md R56), and an implementation may take these steps at any pace
(93 row 9; log 6). -/

namespace Sys2Proof.Machine

/-- RK[r], for r = 1..27 (10_state.md R21); none for an index outside the table or an unwritten table. -/
def State.roundKey (s : State) (r : BitVec 5) : Option Block :=
  match s.rk with
  | none => none
  | some rk => if r = 0 then none else rk[r.toNat - 1]?

/-- The IDLE rows: what the sequencer starts with for a command that passes its checks (R164, R170, R210). -/
def Sequencer.start (i : Instr) (s : State) : Sequencer :=
  match i with
  | .blkSetkey k => .ksRound (ksInit k) 1
  | .cfbSetkey k _ => .ksRound (ksInit k) 1
  | .blkEnc x => if s.keyed then .encRound x 1 else .idle
  | .cfbEnc _ | .cfbDec _ =>
    match s.cipher with
    | .streaming _ ks => if s.kpos = kposSpent then .encRound (packBytes ks) 1 else .byte ks s.kpos
    | .unkeyed | .keyed _ _ => .idle
  | .nop | .gfMul _ _ | .gfAdd _ _ | .sbox _ _ | .sub _ | .perm _ | .mix _ | .rt _ | .blkDec => .idle

/-- Where ENC_ROUND goes after round 27: REFILL for a byte command (R210), else COMPLETE (R170). -/
def Sequencer.afterRounds (i : Instr) (bs : Block) : Sequencer :=
  match i with
  | .cfbEnc _ | .cfbDec _ => .refill bs
  | _ => .complete (.block bs)

/-- The BYTE row, for the byte A and direction of the command (R210). -/
def Sequencer.byteRow (i : Instr) (ks : Vector Byte 8) (k : BitVec 4) : Sequencer :=
  let step := match i with
    | .cfbEnc a => byteStep .enc a ks k
    | .cfbDec a => byteStep .dec a ks k
    | _ => none
  match step with
  | some (out, ks', k') => .complete (.byte ks' k' out)
  | none => .byte ks k

/-- One row of the reference tables (R164, R170, R210), for the command in flight and the architectural state, which
does not change while it is in flight (20_memory.md R56). -/
def Sequencer.tick (i : Instr) (s : State) : Sequencer → Sequencer
  | .idle => .idle
  | .complete p => .complete p
  | .ksRound w r =>
    let w' := Sys2Proof.Machine.ksRound r w
    if (r + 1).toNat ≤ rounds then .ksRound w' (r + 1) else .complete (.keys w'.made)
  | .encRound bs r =>
    match s.roundKey r with
    | none => .encRound bs r
    | some key =>
      let bs' := Sys2Proof.Machine.encRound bs key
      if (r + 1).toNat ≤ rounds then .encRound bs' (r + 1) else Sequencer.afterRounds i bs'
  | .refill bs => .byte (unpack bs) 0
  | .byte ks k => Sequencer.byteRow i ks k

/-- n rows of the reference tables. -/
def Sequencer.ticks (i : Instr) (s : State) : Nat → Sequencer → Sequencer
  | 0, q => q
  | n + 1, q => Sequencer.ticks i s n (q.tick i s)

/-- The sequencer of a latched command at its acceptance edge: IDLE when it does not decode (30_encoding.md R90). -/
def Sequencer.accept (cw : CmdWord) (cd : CmdData) (s : State) : Sequencer :=
  match decode cw cd with
  | .ok i => Sequencer.start i s
  | .error _ => .idle

/-- n rows for a latched command. -/
def Sequencer.advance (cw : CmdWord) (cd : CmdData) (s : State) (n : Nat) (q : Sequencer) : Sequencer :=
  match decode cw cd with
  | .ok i => Sequencer.ticks i s n q
  | .error _ => q

/-- What a byte command commits: its buffer, position and output; none outside a stream. -/
def commitByte (ks : Vector Byte 8) (k : BitVec 4) (out : Byte) (s : State) : Option State :=
  match s.cipher with
  | .streaming rk _ => some ((s.writeStream rk ks k).complete (zextByte out))
  | .unkeyed | .keyed _ _ => none

/-- The state that COMPLETE leaves (R164, R170, R210): the command's remaining effects on what the sequencer made.
None when what it made is not what the command needs. -/
def Pending.commit (i : Instr) (p : Pending) (s : State) : Option State :=
  match i, p with
  | .blkSetkey _, .keys made =>
    if h : made.length = 27 then
      some ((s.installKeys ⟨made.toArray, by simp [h]⟩).complete 0)
    else none
  | .cfbSetkey _ iv, .keys made =>
    if h : made.length = 27 then
      some ((s.beginStream ⟨made.toArray, by simp [h]⟩ (unpack iv)).complete 0)
    else none
  | .blkEnc _, .block bs => some (s.complete bs)
  | .cfbEnc _, .byte ks k out => commitByte ks k out s
  | .cfbDec _, .byte ks k out => commitByte ks k out s
  | _, _ => none

end Sys2Proof.Machine
end

