-- ==== Sys2Proof/Machine/Edge.lean ====
section
/-! DEFINITION. One rising edge of `clk` (20_memory.md R52 to R56, 70_reset_and_hazards.md R270), and the whole transition
of one command (44_control.md R231). -/

namespace Sys2Proof.Machine

/-- The code that a decode error raises (30_encoding.md R90). -/
def decodeErrCode : DecodeError → ErrCode
  | .illegalOp => .illegalOp
  | .rsvdField => .rsvdField

/-- `Execute(cw, cd)`: decode, the command's own rule, completion; or the decode error (R231, R241). -/
def execute (cw : CmdWord) (cd : CmdData) (s : State) : Host.Outcome State Fault Refusal :=
  match decode cw cd with
  | .ok i => exec i s
  | .error e => .next (s.raiseErr (decodeErrCode e))

/-- `LAT(op, state)` for a command accepted in this state: at least 1 (00_scope.md R6). What it may depend on is the model's
choice: the opcode field, the registers of 10_state.md R20 and the number of commands accepted before (log 5). -/
def latency (cw : CmdWord) (s : State) : Nat := Config.latBeyondOne (opField cw) s.arch s.draws + 1

/-- The acceptance edge of the command that the host offers (R53), which will complete LAT edges later (R55). -/
def acceptOffer (s : State) : State :=
  s.sampled.acceptEdge s.pin.cmdWord s.pin.cmdData (latency s.pin.cmdWord s - 1)
    (Sequencer.accept s.pin.cmdWord s.pin.cmdData s)

/-- An edge with a command in flight: the completion edge when no edge is left before it (R55), else one edge nearer, with
the sequencer advanced as far as the implementation takes it (R56; log 6). -/
def busyEdge (f : InFlight) (s : State) : Host.Outcome State Fault Refusal :=
  match f.left with
  | 0 => execute f.cw f.cd s.sampled
  | n + 1 => .next (s.sampled.waitEdge f n (Sequencer.advance f.cw f.cd s (Config.pace f s.arch s.draws) f.seq))

/-- One rising edge: reset wins over everything (R270); a command in flight goes on; otherwise an offer is accepted
(R53, R54). -/
def risingEdge (s : State) : Host.Outcome State Fault Refusal :=
  if s.pin.rst then .next s.sampled.resetEdge
  else match s.inflight with
    | some f => busyEdge f s
    | none =>
      if s.pin.cmdValid && s.cmdReady then .next (acceptOffer s)
      else .next s.sampled.idleEdge

/-- Nothing in flight but this command, at the edge before its completion (log 4): the host resets nothing at the
completion edge. -/
def State.atCompletionOf (cw : CmdWord) (cd : CmdData) (s : State) : State :=
  let t := s.latch cw cd 0 (Sequencer.accept cw cd s)
  if s.pin.rst then { t with pins := Pins.idle :: s.pins } else t

end Sys2Proof.Machine
end

