-- ==== Sys2Proof/Machine/Step.lean ====
section
/-! DEFINITION. The step of the machine: one rising edge of `clk` (20_memory.md R52). -/

namespace Sys2Proof.Machine

/-- One step is one rising edge. -/
def step (s : State) : Host.Outcome State Fault Refusal :=
  risingEdge s

/-- The command of a row of the opcode table, in flight and due to complete at the next edge (log 4). -/
def State.withFetchWord (s : State) (nbits w : Nat) : State :=
  s.atCompletionOf (commandOfTable nbits w).word (commandOfTable nbits w).data

end Sys2Proof.Machine
end

