-- ==== Sys2Proof/Machine/Assembler.lean ====
section
/-! DEFINITION. The assembly syntax of 30_encoding.md R91: a line of text to the command word and data it stands for. Text
is a list of characters. What R91 leaves open of the text form (blanks, letter case) is log 14. -/

namespace Sys2Proof.Machine

/-- A line of assembly with its operands as numbers, not yet held to their widths (R91). -/
inductive AsmLine where
  | nop
  | gfMul (a b : Nat)
  | gfAdd (a b : Nat)
  | sbox (i a : Nat)
  | sub (x : Nat)
  | perm (x : Nat)
  | mix (x : Nat)
  | rt (x : Nat)
  | blkSetkey (k : Nat)
  | blkEnc (x : Nat)
  | blkDec (x : Nat)
  | cfbSetkey (k iv : Nat)
  | cfbEnc (a : Nat)
  | cfbDec (a : Nat)
  /-- `.cmd w, d`: the word and the data verbatim. -/
  | cmd (w d : Nat)
deriving DecidableEq, Repr

/-- A number fits an operand of this width; one too wide is an assembly error (R91). -/
def fits (width n : Nat) : Bool := decide (n < 2 ^ width)

/-- What one operand of this width assembles to. -/
def asm1 (width n : Nat) (f : BitVec width → Command) : Option Command :=
  if fits width n then some (f (BitVec.ofNat width n)) else none

/-- What two operands of these widths assemble to. -/
def asm2 (w1 n1 w2 n2 : Nat) (f : BitVec w1 → BitVec w2 → Command) : Option Command :=
  if fits w1 n1 && fits w2 n2 then some (f (BitVec.ofNat w1 n1) (BitVec.ofNat w2 n2)) else none

/-- The command of a line (R91); none is an assembly error. -/
def assemble : AsmLine → Option Command
  | .nop => some (encode .nop)
  | .gfMul a b => asm2 8 a 8 b fun a b => encode (.gfMul a b)
  | .gfAdd a b => asm2 8 a 8 b fun a b => encode (.gfAdd a b)
  | .sbox i a => asm2 4 i 8 a fun i a => encode (.sbox i a)
  | .sub x => asm1 64 x fun x => encode (.sub x)
  | .perm x => asm1 64 x fun x => encode (.perm x)
  | .mix x => asm1 64 x fun x => encode (.mix x)
  | .rt x => asm1 64 x fun x => encode (.rt x)
  | .blkSetkey k => asm1 128 k fun k => encode (.blkSetkey k)
  | .blkEnc x => asm1 64 x fun x => encode (.blkEnc x)
  | .blkDec x => asm1 64 x fun x => { word := (encode .blkDec).word, data := x.setWidth 192 }
  | .cfbSetkey k iv => asm2 128 k 64 iv fun k iv => encode (.cfbSetkey k iv)
  | .cfbEnc a => asm1 8 a fun a => encode (.cfbEnc a)
  | .cfbDec a => asm1 8 a fun a => encode (.cfbDec a)
  | .cmd w d => asm2 32 w 192 d fun w d => { word := w, data := d }

/-- A space or a tab (log 14). -/
def isBlank (c : Char) : Bool := c = ' ' || c = '\t'

/-- The text without the blanks at its two ends. -/
def trimBlanks (cs : List Char) : List Char :=
  ((cs.dropWhile isBlank).reverse.dropWhile isBlank).reverse

/-- The text before a `;`, which starts a comment (R91). -/
def stripComment (cs : List Char) : List Char := cs.takeWhile fun c => c ≠ ';'

/-- The ways to write each of the sixteen digits, digit n at place n: a letter in either case (00_scope.md R12; log 14). -/
def digitForms : List (List Char) :=
  [['0'], ['1'], ['2'], ['3'], ['4'], ['5'], ['6'], ['7'], ['8'], ['9'],
    ['A', 'a'], ['B', 'b'], ['C', 'c'], ['D', 'd'], ['E', 'e'], ['F', 'f']]

/-- The value of a character as a digit: its place in the table of forms. -/
def hexDigit (c : Char) : Option Nat := digitForms.findIdx? fun forms => forms.contains c

/-- The number that digits of a base spell after those already read. -/
def digits (base acc : Nat) : List Char → Option Nat
  | [] => some acc
  | c :: cs =>
    match hexDigit c with
    | some d => if d < base then digits base (acc * base + d) cs else none
    | none => none

/-- A number: hexadecimal after `0x`, else decimal (00_scope.md R12). -/
def number (cs : List Char) : Option Nat :=
  match cs with
  | '0' :: 'x' :: d :: ds => digits 16 0 (d :: ds)
  | d :: ds => digits 10 0 (d :: ds)
  | [] => none

/-- The operands of a line: what stands between the commas (R91). -/
def splitCommas : List Char → List (List Char)
  | [] => [[]]
  | c :: cs =>
    match splitCommas cs with
    | [] => [[c]]
    | w :: ws => if c = ',' then [] :: w :: ws else (c :: w) :: ws

/-- The numbers of an operand list; none when one of them is no number. -/
def numbers : List (List Char) → Option (List Nat)
  | [] => some []
  | w :: ws =>
    match number (trimBlanks w), numbers ws with
    | some n, some ns => some (n :: ns)
    | _, _ => none

/-- The operands after the mnemonic; none at all when nothing but blanks follows it. -/
def operands (cs : List Char) : Option (List Nat) :=
  match trimBlanks cs with
  | [] => some []
  | rest => numbers (splitCommas rest)

/-- The line that a mnemonic and its operands make (R91). -/
def asmLine (mnemonic : List Char) (ops : List Nat) : Option AsmLine :=
  match ops with
  | [] => if mnemonic = ['n', 'o', 'p'] then some .nop else none
  | [x] =>
    if mnemonic = ['s', 'u', 'b'] then some (.sub x)
    else if mnemonic = ['p', 'e', 'r', 'm'] then some (.perm x)
    else if mnemonic = ['m', 'i', 'x'] then some (.mix x)
    else if mnemonic = ['r', 't'] then some (.rt x)
    else if mnemonic = ['b', 'l', 'k', '.', 's', 'e', 't', 'k', 'e', 'y'] then some (.blkSetkey x)
    else if mnemonic = ['b', 'l', 'k', '.', 'e', 'n', 'c'] then some (.blkEnc x)
    else if mnemonic = ['b', 'l', 'k', '.', 'd', 'e', 'c'] then some (.blkDec x)
    else if mnemonic = ['c', 'f', 'b', '.', 'e', 'n', 'c'] then some (.cfbEnc x)
    else if mnemonic = ['c', 'f', 'b', '.', 'd', 'e', 'c'] then some (.cfbDec x)
    else none
  | [x, y] =>
    if mnemonic = ['g', 'f', '.', 'm', 'u', 'l'] then some (.gfMul x y)
    else if mnemonic = ['g', 'f', '.', 'a', 'd', 'd'] then some (.gfAdd x y)
    else if mnemonic = ['s', 'b', 'o', 'x'] then some (.sbox x y)
    else if mnemonic = ['c', 'f', 'b', '.', 's', 'e', 't', 'k', 'e', 'y'] then some (.cfbSetkey x y)
    else if mnemonic = ['.', 'c', 'm', 'd'] then some (.cmd x y)
    else none
  | _ :: _ :: _ :: _ => none

/-- One line of text (R91): nothing for a line with no command, one command, or an assembly error (none). -/
def assembleText (line : List Char) : Option (List Command) :=
  match trimBlanks (stripComment line) with
  | [] => some []
  | text =>
    match operands (text.dropWhile fun c => !isBlank c) with
    | none => none
    | some ops =>
      match asmLine (text.takeWhile fun c => !isBlank c) ops with
      | none => none
      | some l => (assemble l).map fun c => [c]

/-- A program: one command per line, in order (R91, 44_control.md R232); none when a line is in error. -/
def assembleProgram : List (List Char) → Option (List Command)
  | [] => some []
  | line :: rest =>
    match assembleText line, assembleProgram rest with
    | some cs, some more => some (cs ++ more)
    | _, _ => none

end Sys2Proof.Machine
end

