-- ==== Sys2Proof/Machine/Program.lean ====
section
/-! DEFINITION. Sequences of commands (20_memory.md R59, 44_control.md R232): each runs from the state that its
predecessor left. What the host sees after each is RESULT and STATUS. -/

namespace Sys2Proof.Machine

/-- The left-to-right composition of `Execute` over (cmd_word, cmd_data) pairs (R59): RESULT and STATUS after each, and
the state after the last; none if a command stops the model. -/
def runProgram : List Command → State → Option (List (Block × BitVec 16) × State)
  | [], s => some ([], s)
  | c :: rest, s =>
    match execute c.word c.data s with
    | .next t =>
      match runProgram rest t with
      | some (seen, u) => some ((t.result, t.status) :: seen, u)
      | none => none
    | .fault _ => none
    | .refused _ => none

/-- The same for decoded commands: the results in order, and the state after the last. -/
def runCommands : List Instr → State → Option (List Block × State)
  | [], s => some ([], s)
  | i :: rest, s =>
    match exec i s with
    | .next t =>
      match runCommands rest t with
      | some (results, u) => some (t.result :: results, u)
      | none => none
    | .fault _ => none
    | .refused _ => none

end Sys2Proof.Machine
end

