-- ==== Sys2Proof/Safety.lean ====
section
/-! DEFINITION. What the core promises of its own state, in the terms that statements use. -/

namespace Sys2Proof.Machine

/-- The hidden sequencer of a command in flight is where some number of rows of the reference tables take it from its
start (42_block_cipher.md R164, R170, 43_cfb.md R210). -/
def State.onTrack (s : State) (f : InFlight) : Prop :=
  ∃ n, f.seq = Sequencer.advance f.cw f.cd s n (Sequencer.accept f.cw f.cd s)

/-- The invariant of the core. -/
structure State.Inv (s : State) : Prop where
  /-- KEYED = 1: RK holds the schedule of some master key (10_state.md R23). -/
  keyedSchedule : s.keyed = true → ∃ k, s.rk = some (keySchedule k)
  /-- CFB_RDY = 1 implies KEYED = 1 (R27). This and the next hold of every State by the form of `CipherState`. -/
  readyKeyed : s.cfbRdy = true → s.keyed = true
  /-- CFB_RDY = 1: KS is written (R37). -/
  readyBuffer : s.cfbRdy = true → s.ks.isSome = true
  /-- KPOS is in 0..8 (R25). -/
  kposRange : s.kpos.toNat ≤ 8
  /-- An error leaves RESULT = 0 (60_exceptions.md R241). -/
  errorResult : s.err ≠ .none → s.result = 0
  /-- `done` = 1 only after a completion: nothing is in flight (20_memory.md R55). -/
  doneIdle : s.done = true → s.inflight = none
  /-- The sequencer follows the reference tables. -/
  sequencer : ∀ f, s.inflight = some f → s.onTrack f

/-- A step that goes on: the machine neither faults nor refuses. -/
def goesOn (o : Host.Outcome State Fault Refusal) : Prop := ∃ t, o = .next t

end Sys2Proof.Machine
end

