-- ==== Sys2Proof/Certificates/Slice0/Obligations.lean ====
section
/-! DEFINITION. The statements for the provers, each from a numbered rule of the spec, and the spec-side words they use. -/

open Sys2Proof Sys2Proof.Machine

namespace Sys2Proof.Spec

/-- What a successful command leaves in the registers that every command writes, and BUSY = 0, `done` = 1
(10_state.md R38, 44_control.md R231). Everything else is as before. -/
def completed (v : Block) (s : State) : State :=
  { s with result := v, err := ErrCode.none, done := true, inflight := none }

/-- What an error leaves (60_exceptions.md R241). Everything else is as before. -/
def failed (c : ErrCode) (s : State) : State :=
  { s with result := 0, err := c, done := true, inflight := none }

/-- A command word from its fields, RSVD, IDX and OP, most significant first (30_encoding.md R81). -/
def commandWord (op : BitVec 8) (idx : BitVec 4) (rsvd : BitVec 20) : CmdWord := rsvd ++ idx ++ op

/-- The opcodes of the opcode map (30_encoding.md R84). -/
def opcodes : List (BitVec 8) :=
  [0x00#8, 0x01#8, 0x02#8, 0x08#8, 0x09#8, 0x0A#8, 0x0B#8, 0x0C#8, 0x10#8, 0x11#8, 0x12#8, 0x20#8, 0x21#8, 0x22#8]

/-- The product of two polynomials over GF(2), bit i the coefficient of x^i. -/
def polyProduct (a b : Byte) : BitVec 16 :=
  (List.range 8).foldl (fun p i => if b.getLsbD i then p ^^^ (a.setWidth 16 <<< i) else p) 0

/-- The remainder on division by x^8+x^4+x^3+x^2+1: the terms x^15 down to x^8 cancelled one after another. -/
def polyRemainder (p : BitVec 16) : Byte :=
  ((List.range 8).foldl (fun q j => if q.getLsbD (15 - j) then q ^^^ (0x11D#16 <<< (7 - j)) else q) p).setWidth 8

/-- K_j, byte j of a master key (30_encoding.md R82). -/
def keyByte (j : Nat) (k : Key) : Byte := k.extractLsb' (120 - 8 * j) 8

/-- How many bits of a block are 1. -/
def weight (x : Block) : Nat := (List.range 64).countP fun i => x.getLsbD i

/-- Full-block cipher feedback: each ciphertext block is its plaintext block XOR the encryption of the one before, the
IV before the first (43_cfb.md R207). -/
def feedbackChain (rk : Vector Block 27) : Block → List Block → List Block
  | _, [] => []
  | prev, p :: ps => (p ^^^ encrypt rk prev) :: feedbackChain rk (p ^^^ encrypt rk prev) ps

/-- The bytes of a block, byte 0 first. -/
def bytesOf (x : Block) : List Byte := (List.range 8).map fun j => byteAt j x

/-- How many times a sequence of commands regenerates the buffer: once for each byte command that is set up and starts at
KPOS = 8 (43_cfb.md R202). -/
def regenerations : List Instr → State → Nat
  | [], _ => 0
  | i :: rest, s =>
    (match i with
      | .cfbEnc _ | .cfbDec _ => if s.cfbRdy = true ∧ s.kpos = 8 then 1 else 0
      | _ => 0) +
    match exec i s with
    | .next t => regenerations rest t
    | .fault _ | .refused _ => 0

/-- A byte command of the CFB unit. -/
def isByteCommand : Instr → Bool
  | .cfbEnc _ | .cfbDec _ => true
  | _ => false

/-- A command that installs a key. -/
def isSetkey : Instr → Bool
  | .blkSetkey _ | .cfbSetkey _ _ => true
  | _ => false

/-- `cfb.setkey`. -/
def isCfbSetkey : Instr → Bool
  | .cfbSetkey _ _ => true
  | _ => false

/-- The error that a command word raises in a state: the first that applies, in the order of 60_exceptions.md R243, with the
causes of R242. -/
def firstError (cw : CmdWord) (s : State) : ErrCode :=
  let op := cw.setWidth 8
  let idx := (cw >>> 8).setWidth 4
  let rsvd := (cw >>> 12).setWidth 20
  if op ∉ opcodes then .illegalOp
  else if rsvd ≠ 0 ∨ (op ≠ 0x08 ∧ idx ≠ 0) then .rsvdField
  else if op = 0x08 ∧ (idx = 0 ∨ 9 ≤ idx.toNat) then .badIndex
  else if op = 0x12 then .unimplemented
  else if op = 0x11 ∧ s.keyed = false then .noKey
  else if (op = 0x21 ∨ op = 0x22) ∧ s.cfbRdy = false then .noCfb
  else .none

/-- The state after a command accepted in this state has completed; as it was if the command stops the model. -/
def afterCommand (c : Command) (s : State) : State :=
  match execute c.word c.data { s with draws := s.draws + 1 } with
  | .next t => t
  | .fault _ | .refused _ => s

/-- `Offered cs s samples n`: from the idle state s, the samples offer the commands cs one after another, and by edge n the last
of them has completed. At each offer the core is ready; the LAT samples after it may be anything without a reset, offers
too, which R53 ignores; pauses may stand before, between and after the commands, and what comes after edge n is free. -/
inductive Offered : List Command → State → List Pins → Nat → Prop
  /-- No command is left to offer. -/
  | finished (s : State) (samples : List Pins) : Offered [] s samples 0
  /-- An edge without an offer. -/
  | pause {cs : List Command} {s : State} {p : Pins} {samples : List Pins} {n : Nat} :
      p.rst = false → p.cmdValid = false → Offered cs s samples n → Offered cs s (p :: samples) (n + 1)
  /-- The acceptance edge of a command, and the LAT edges to its completion. -/
  | command {c : Command} {cs : List Command} {s : State} {busy samples : List Pins} {n : Nat} :
      busy.length = latency c.word s → (∀ p ∈ busy, p.rst = false) → Offered cs (afterCommand c s) samples n →
      Offered (c :: cs) s
        ({ rst := false, cmdValid := true, cmdWord := c.word, cmdData := c.data } :: (busy ++ samples))
        (1 + latency c.word s + n)

end Sys2Proof.Spec

open Sys2Proof.Spec

/-! ### Encoding -/

/-- Decoding what the encoder writes gives the command back, for every command and every operand
(30_encoding.md R82, R84, R90, R91). -/
def Obligations.DecodeOfEncodeIsIdentity : Prop :=
  ∀ i : Instr, decode (encode i).word (encode i).data = .ok i

/-- What decodes is exactly the encoder's word, with the encoder's data in the bits that the command reads
(R82, R83, R84). -/
def Obligations.DecodedCommandHasEncodersWord : Prop :=
  ∀ cw cd i, decode cw cd = .ok i →
    (encode i).word = cw ∧ (encode i).data = cd &&& readMask (opField cw)

/-- Bits of cmd_data that a command does not read never cause an error and never influence a result (R83). -/
def Obligations.UnreadDataBitsAreIgnored : Prop :=
  ∀ cw cd cd' s, cd &&& readMask (opField cw) = cd' &&& readMask (opField cw) →
    execute cw cd s = execute cw cd' s

/-- Every OP outside the map is illegal: the command raises ILLEGAL_OP, whatever its other fields and data, and changes no
other state (R85). -/
def Obligations.IllegalOpcodesRaiseAndChangeNothing : Prop :=
  ∀ (op : BitVec 8) idx rsvd cd s,
    ((0x03 ≤ op.toNat ∧ op.toNat ≤ 0x07) ∨ (0x0D ≤ op.toNat ∧ op.toNat ≤ 0x0F) ∨
      (0x13 ≤ op.toNat ∧ op.toNat ≤ 0x1F) ∨ 0x23 ≤ op.toNat) →
    op ∉ opcodes ∧ execute (commandWord op idx rsvd) cd s = .next (failed .illegalOp s)

/-- A legal OP with RSVD not 0 raises RSVD_FIELD (R86). -/
def Obligations.NonzeroReservedFieldRaises : Prop :=
  ∀ op idx rsvd cd s, op ∈ opcodes → rsvd ≠ 0 →
    execute (commandWord op idx rsvd) cd s = .next (failed .rsvdField s)

/-- IDX: not 0 on a command other than `sbox` raises RSVD_FIELD; for `sbox` (with RSVD = 0), outside 1..8 it raises
BAD_INDEX (R87). -/
def Obligations.IndexFieldIsChecked : Prop :=
  (∀ op idx rsvd cd s, op ∈ opcodes → op ≠ 0x08 → idx ≠ 0 →
    execute (commandWord op idx rsvd) cd s = .next (failed .rsvdField s)) ∧
  (∀ (idx : BitVec 4) cd s, (idx = 0 ∨ 9 ≤ idx.toNat) →
    execute (commandWord 0x08 idx 0) cd s = .next (failed .badIndex s))

/-- A few words of the map decode to the commands that R91 writes with them. -/
def Obligations.KnownWordsDecode : Prop :=
  decode 0x00000000 0 = .ok .nop ∧
  decode 0x00000001 0x8357 = .ok (.gfMul 0x57 0x83) ∧
  decode 0x00000308 0x80 = .ok (.sbox 3 0x80) ∧
  decode 0x00000010 0x000102030405060708090A0B0C0D0E0F0000000000000000 =
    .ok (.blkSetkey 0x000102030405060708090A0B0C0D0E0F) ∧
  decode 0x00000020 0x000102030405060708090A0B0C0D0E0FF0F1F2F3F4F5F6F7 =
    .ok (.cfbSetkey 0x000102030405060708090A0B0C0D0E0F 0xF0F1F2F3F4F5F6F7) ∧
  decode 0x00000022 0x59 = .ok (.cfbDec 0x59) ∧
  decode 0x00000F13 0 = .error .illegalOp ∧
  decode 0x80000108 0 = .error .rsvdField

/-- The error code that a completed command reports is the first that applies, in the order of R243, with the causes of
R242 and its code for each name. -/
def Obligations.ReportedErrorIsTheFirstThatApplies : Prop :=
  (∀ cw cd s t, execute cw cd s = .next t → t.err = firstError cw s) ∧
  [ErrCode.none, .illegalOp, .rsvdField, .badIndex, .noKey, .noCfb, .unimplemented].map ErrCode.code =
    [0, 1, 2, 3, 4, 5, 6] ∧
  (∀ e : ErrCode, e.code.toNat ≤ 6)

/-- The table of the assembly syntax: the command word and data of each line, and an assembly error for a number too wide
for its operand (R91). -/
def Obligations.AssemblyLinesGiveTheirWords : Prop :=
  (assemble .nop = some { word := 0x00000000, data := 0 }) ∧
  (∀ a b, assemble (.gfMul a b) =
    if a < 2 ^ 8 ∧ b < 2 ^ 8 then some { word := 0x00000001, data := BitVec.ofNat 192 (b * 2 ^ 8 + a) } else none) ∧
  (∀ a b, assemble (.gfAdd a b) =
    if a < 2 ^ 8 ∧ b < 2 ^ 8 then some { word := 0x00000002, data := BitVec.ofNat 192 (b * 2 ^ 8 + a) } else none) ∧
  (∀ i a, assemble (.sbox i a) =
    if i < 2 ^ 4 ∧ a < 2 ^ 8 then some { word := BitVec.ofNat 32 (0x08 + i * 2 ^ 8), data := BitVec.ofNat 192 a }
    else none) ∧
  (∀ x, assemble (.sub x) = if x < 2 ^ 64 then some { word := 0x00000009, data := BitVec.ofNat 192 x } else none) ∧
  (∀ x, assemble (.perm x) = if x < 2 ^ 64 then some { word := 0x0000000A, data := BitVec.ofNat 192 x } else none) ∧
  (∀ x, assemble (.mix x) = if x < 2 ^ 64 then some { word := 0x0000000B, data := BitVec.ofNat 192 x } else none) ∧
  (∀ x, assemble (.rt x) = if x < 2 ^ 64 then some { word := 0x0000000C, data := BitVec.ofNat 192 x } else none) ∧
  (∀ k, assemble (.blkSetkey k) =
    if k < 2 ^ 128 then some { word := 0x00000010, data := BitVec.ofNat 192 (k * 2 ^ 64) } else none) ∧
  (∀ x, assemble (.blkEnc x) = if x < 2 ^ 64 then some { word := 0x00000011, data := BitVec.ofNat 192 x } else none) ∧
  (∀ x, assemble (.blkDec x) = if x < 2 ^ 64 then some { word := 0x00000012, data := BitVec.ofNat 192 x } else none) ∧
  (∀ k iv, assemble (.cfbSetkey k iv) =
    if k < 2 ^ 128 ∧ iv < 2 ^ 64 then some { word := 0x00000020, data := BitVec.ofNat 192 (k * 2 ^ 64 + iv) }
    else none) ∧
  (∀ a, assemble (.cfbEnc a) = if a < 2 ^ 8 then some { word := 0x00000021, data := BitVec.ofNat 192 a } else none) ∧
  (∀ a, assemble (.cfbDec a) = if a < 2 ^ 8 then some { word := 0x00000022, data := BitVec.ofNat 192 a } else none) ∧
  (∀ w d, assemble (.cmd w d) =
    if w < 2 ^ 32 ∧ d < 2 ^ 192 then some { word := BitVec.ofNat 32 w, data := BitVec.ofNat 192 d } else none)

/-! ### The port and the edges -/

/-- At the completion edge of a latched command that decodes to i, the step is exec of i on the state whose script has
lost the sample of this edge (44_control.md R231, 20_memory.md R55). -/
def Obligations.StepRunsTheDecodedCommand : Prop :=
  ∀ s f i, s.pin.rst = false → s.inflight = some f → f.left = 0 → decode f.cw f.cd = .ok i →
    step s = exec i { s with pins := s.pins.tail }

/-- The step after withFetchWord is `Execute` on the row's word and data. The host's script is the model's own (log 3), and
placing a command at its completion edge is log 4. -/
def Obligations.PlacedCommandRunsNext : Prop :=
  ∀ (s : State) nbits w, ∃ script, step (s.withFetchWord nbits w) =
    execute (commandOfTable nbits w).word (commandOfTable nbits w).data { s with pins := script }

/-- The state after reset has the values of 10_state.md R36, and STATUS reads 0x0800. -/
def Obligations.ResetStateHasTheStatedValues : Prop :=
  State.reset.rk = none ∧ State.reset.keyed = false ∧ State.reset.ks = none ∧ State.reset.kpos = 8 ∧
  State.reset.cfbRdy = false ∧ State.reset.busy = false ∧ State.reset.err = .none ∧ State.reset.result = 0 ∧
  State.reset.status = 0x0800

/-- An edge with rst = 1 puts the core into the values of 10_state.md R36 whatever it was doing: nothing of a command in flight
appears, `done` does not pulse, an offer is not accepted (70_reset_and_hazards.md R270). -/
def Obligations.ResetEdgeWinsOverEverything : Prop :=
  ∀ s, s.pin.rst = true → ∃ t, step s = .next t ∧
    t.arch = State.reset.arch ∧ t.busy = false ∧ t.done = false ∧ t.inflight = none

/-- While rst = 1 the core is not ready. After an edge with rst = 1 the outputs are those of 70_reset_and_hazards.md R271;
and the first edge with rst = 0 can accept a command (R272). The rst that `cmd_ready` looks at is the one that the next edge
samples: the model's reading of "while" (log 12). -/
def Obligations.OutputsAroundReset : Prop :=
  (∀ s : State, s.pin.rst = true → s.outputs.cmdReady = false) ∧
  (∀ s t, s.pin.rst = true → step s = .next t →
    t.outputs = { cmdReady := !t.pin.rst, done := false, result := 0, status := 0x0800 } ∧
    (t.pin.rst = false → t.pin.cmdValid = true → ∃ u, step t = .next u ∧ u.busy = true))

/-- The handshake (20_memory.md R53, R54): cmd_ready is 1 exactly when rst = 0 and BUSY = 0; an offer at such an edge is latched
whole, and BUSY becomes 1; with cmd_ready = 0 and no reset, what is offered has no effect. That the ports' values are the
head of a script, which each edge shortens, is the model's own (log 3). -/
def Obligations.OffersAreAcceptedOnlyWhenReady : Prop :=
  (∀ s : State, s.cmdReady = true ↔ s.pin.rst = false ∧ s.busy = false) ∧
  (∀ s, s.cmdReady = true → s.pin.cmdValid = true → ∃ t f, step s = .next t ∧ t.inflight = some f ∧
    f.cw = s.pin.cmdWord ∧ f.cd = s.pin.cmdData ∧ f.left + 1 = latency s.pin.cmdWord s ∧
    t.busy = true ∧ t.done = false ∧ t.arch = s.arch ∧ t.pins = s.pins.tail) ∧
  (∀ s, s.cmdReady = true → s.pin.cmdValid = false →
    step s = .next { s with done := false, pins := s.pins.tail }) ∧
  (∀ s f, s.pin.rst = false → s.inflight = some f →
    (f.left = 0 → step s = execute f.cw f.cd { s with pins := s.pins.tail }) ∧
    (∀ n, f.left = n + 1 → ∃ q, step s =
      .next { s with done := false, pins := s.pins.tail, inflight := some { f with left := n, seq := q } }))

/-- A command is one atomic transition (20_memory.md R55, R56): accepted at one edge with no reset until it completes, at each of
the LAT edges from acceptance on but the last, the architectural state is that of before with BUSY = 1; at the LAT-th
edge after acceptance the whole of `Execute(S, cw, cd)` appears. The script and the count of acceptances in that state are
the model's own (logs 3 and 5). -/
def Obligations.EveryCommandIsOneAtomicTransition : Prop :=
  ∀ s, s.inflight = none → s.pin.cmdValid = true →
    (∀ p ∈ s.pins.take (latency s.pin.cmdWord s + 1), p.rst = false) →
    (∀ k, 1 ≤ k → k ≤ latency s.pin.cmdWord s →
      ∃ t, Host.Core.run Sys2Proof.core k s = .next t ∧ t.arch = s.arch ∧ t.busy = true ∧ t.done = false) ∧
    Host.Core.run Sys2Proof.core (latency s.pin.cmdWord s + 1) s =
      execute s.pin.cmdWord s.pin.cmdData
        { s with pins := s.pins.drop (latency s.pin.cmdWord s + 1), draws := s.draws + 1 }

/-- While BUSY = 1, `result` shows the previous RESULT and `status` the previous ERR and flags with BUSY = 1
(20_memory.md R58). -/
def Obligations.OutputsHoldWhileBusy : Prop :=
  (∀ s t, s.inflight = none → s.pin.rst = false → s.pin.cmdValid = true → step s = .next t →
    t.result = s.result ∧ t.status = s.status ||| 1) ∧
  (∀ s t f n, s.inflight = some f → f.left = n + 1 → s.pin.rst = false → step s = .next t →
    t.result = s.result ∧ t.status = s.status ∧ s.status.getLsbD 0 = true)

/-- `done` = 1 in the cycle after a completion edge, and at no other time (20_memory.md R55). -/
def Obligations.DonePulsesExactlyAfterCompletion : Prop :=
  ∀ s t, step s = .next t →
    (t.done = true ↔ s.pin.rst = false ∧ ∃ f, s.inflight = some f ∧ f.left = 0)

/-- The fields of STATUS (10_state.md R29), with STATUS[3] and STATUS[15:12] 0 in every state (R33). -/
def Obligations.StatusHasItsFields : Prop :=
  ∀ s : State, s.status.getLsbD 0 = s.busy ∧ s.status.getLsbD 1 = s.keyed ∧ s.status.getLsbD 2 = s.cfbRdy ∧
    s.status.getLsbD 3 = false ∧ s.status.extractLsb' 4 4 = s.err.code ∧ s.status.extractLsb' 8 4 = s.kpos ∧
    s.status.extractLsb' 12 4 = 0

/-! ### What every command and every step keeps -/

/-- The invariant holds after reset, with any host script and any count of acceptances. -/
def Obligations.InvariantHoldsAfterReset : Prop :=
  ∀ script count, (State.afterReset script count).Inv

/-- Every step keeps the invariant: KEYED means that RK holds a schedule (10_state.md R23), CFB_RDY implies KEYED (R27) and a
written KS (R37), KPOS stays in 0..8 (R25), an error has RESULT = 0, `done` excludes a command in flight, and the
sequencer follows the reference tables. -/
def Obligations.EveryStepKeepsTheInvariant : Prop :=
  ∀ s t : State, s.Inv → step s = .next t → t.Inv

/-- From a state of the invariant no step faults or refuses: every accepted command completes (44_control.md R231), and no
byte command meets a KPOS outside 0..8 (10_state.md R25). -/
def Obligations.NoStepStopsTheMachine : Prop :=
  ∀ s : State, s.Inv → goesOn (step s)

/-- Which command writes which state (10_state.md R38): the rest of the architectural state is unchanged; ERR, RESULT and the
completion are written by every command. -/
def Obligations.CommandsWriteOnlyTheirOwnState : Prop :=
  ∀ i s t, exec i s = .next t →
    (isSetkey i = false → t.rk = s.rk ∧ t.keyed = s.keyed ∧ t.cfbRdy = s.cfbRdy) ∧
    (isByteCommand i = false → isCfbSetkey i = false → t.ks = s.ks ∧ t.kpos = s.kpos) ∧
    t.done = true ∧ t.busy = false ∧ t.pins = s.pins ∧ t.draws = s.draws

/-- A command that ends in an error writes only ERR and RESULT: no partial write is left behind (60_exceptions.md R241). -/
def Obligations.ErrorsChangeNothingElse : Prop :=
  ∀ cw cd s t, execute cw cd s = .next t → t.err ≠ .none → t = failed t.err s

/-- ERR is not sticky: what a command does depends on no earlier ERR, RESULT or `done`, and it overwrites them
(10_state.md R31). -/
def Obligations.ErrIsWrittenByEveryCommandAndNotSticky : Prop :=
  ∀ cw cd s e v d, execute cw cd { s with err := e, result := v, done := d } = execute cw cd s

/-- KEYED is set to 1 by `blk.setkey` and `cfb.setkey` and cleared only by reset (10_state.md R23). -/
def Obligations.KeyedIsClearedOnlyByReset : Prop :=
  (∀ s t, s.keyed = true → s.pin.rst = false → step s = .next t → t.keyed = true) ∧
  (∀ i s t, isSetkey i = true → exec i s = .next t → t.keyed = true)

/-- The hidden sequencer influences no output: with another sequencer state, the completion edge is the same, and any other edge
is the same but for the sequencer (10_state.md R20, R35). Keeping the hidden registers with the command in flight is log 2. -/
def Obligations.HiddenRegistersInfluenceNothing : Prop :=
  ∀ s f q, s.inflight = some f →
    (f.left = 0 → step { s with inflight := some { f with seq := q } } = step s) ∧
    (∀ t, f.left ≠ 0 → step s = .next t → ∃ u, step { s with inflight := some { f with seq := q } } = .next u ∧
      u.arch = t.arch ∧ u.outputs = t.outputs ∧ u.pins = t.pins ∧ u.draws = t.draws ∧
      u.inflight.map (fun g => (g.cw, g.cd, g.left)) = t.inflight.map fun g => (g.cw, g.cd, g.left))

/-- The machine at its port and the composition of commands (20_memory.md R59, R56): from an idle state of the invariant, a host
that offers commands one after another, with any pauses between and after them, anything but a reset while the core is
busy, and no reset at all, finds the core idle again with the architectural registers that the left-to-right composition
of `Execute` leaves. There is one completion for each command, in order, at rising edges of which none is the start:
after each, and after no other edge, `done` = 1, and after the k-th the host sees the k-th RESULT and STATUS that the
composition lists. The script of samples and the count of acceptances are the model's own (logs 3 and 5). -/
def Obligations.ProgramsCompose : Prop :=
  ∀ cs s edges, s.Inv → s.inflight = none → Offered cs s s.pins edges →
    ∃ seen u t, runProgram cs s = some (seen, u) ∧ seen.length = cs.length ∧
      Host.Core.run Sys2Proof.core edges s = .next t ∧ t.inflight = none ∧ t.arch = u.arch ∧
      ∃ completions : List Nat, completions.length = cs.length ∧ completions.Pairwise (· < ·) ∧
        (∀ m ∈ completions, 1 ≤ m ∧ m ≤ edges) ∧
        ∀ m, 1 ≤ m → m ≤ edges → ∃ v, Host.Core.run Sys2Proof.core m s = .next v ∧
          (v.done = true ↔ m ∈ completions) ∧
          ∀ k : Nat, completions[k]? = some m → seen[k]? = some (v.result, v.status)

/-- No command reads an unwritten entry (10_state.md R37), in any state at all: KEYED = 1 exactly when RK is written, CFB_RDY
= 1 only when RK and KS are; `blk.enc` always completes, and the byte commands do at every KPOS of 0..8. The model's own
choice: that a KPOS of 9 to 15, which never occurs (R25), stops a byte command by name (log 9), and that the form of the
cipher state rules a set flag over an unwritten table out (log 1). -/
def Obligations.NoCommandReadsAnUnwrittenTable : Prop :=
  (∀ s : State, s.keyed = true ↔ s.rk.isSome = true) ∧
  (∀ s : State, s.cfbRdy = true → s.keyed = true ∧ s.rk.isSome = true ∧ s.ks.isSome = true) ∧
  (∀ x s, ∃ t, exec (.blkEnc x) s = .next t) ∧
  (∀ a s, s.kpos.toNat ≤ 8 → ∃ t u, exec (.cfbEnc a) s = .next t ∧ exec (.cfbDec a) s = .next u) ∧
  (∀ a s, s.cfbRdy = true → 9 ≤ s.kpos.toNat →
    exec (.cfbEnc a) s = .fault .kposOutOfRange ∧ exec (.cfbDec a) s = .fault .kposOutOfRange)

/-! ### The commands -/

/-- `nop` (44_control.md R230). -/
def Obligations.NopWritesOnlyResultAndErr : Prop :=
  (∀ s, exec .nop s = .next (completed 0 s)) ∧
  (∀ idx rsvd cd s, execute (commandWord 0x00 idx rsvd) cd s =
    if idx = 0 ∧ rsvd = 0 then exec .nop s else .next (failed .rsvdField s))

/-- `gf.mul` (40_gf_arith.md R113), with A = cmd_data[7:0], B = cmd_data[15:8], and the rule's corner cases and example. -/
def Obligations.GfMulGivesTheProduct : Prop :=
  (∀ a b s, exec (.gfMul a b) s = .next (completed ((gmul a b).setWidth 64) s)) ∧
  (∀ a b, gmul a 0 = 0 ∧ gmul 0 b = 0 ∧ gmul 1 b = b ∧ gmul a b = gmul b a) ∧
  (gmul 0x57 0x83 = 0x31 ∧ gmul 0x80 0x80 = 0x13 ∧ gmul 0x80 0x02 = 0x1D ∧ gmul 0xFF 0xFF = 0xE2) ∧
  (∀ idx rsvd (rest : BitVec 176) a b s, execute (commandWord 0x01 idx rsvd) (rest ++ b ++ a) s =
    if idx = 0 ∧ rsvd = 0 then exec (.gfMul a b) s else .next (failed .rsvdField s))

/-- `gf.add` (40_gf_arith.md R114). -/
def Obligations.GfAddGivesTheXor : Prop :=
  (∀ a b s, exec (.gfAdd a b) s = .next (completed ((a ^^^ b).setWidth 64) s)) ∧
  (∀ idx rsvd (rest : BitVec 176) a b s, execute (commandWord 0x02 idx rsvd) (rest ++ b ++ a) s =
    if idx = 0 ∧ rsvd = 0 then exec (.gfAdd a b) s else .next (failed .rsvdField s))

/-- `sbox` (41_layers.md R140), by the formula of R130; BAD_INDEX outside 1..8. -/
def Obligations.SboxLooksUpItsByte : Prop :=
  (∀ i a s, exec (.sbox i a) s =
    .next (if 1 ≤ i.toNat ∧ i.toNat ≤ 8 then completed ((gmul (0xC0 ^^^ i.setWidth 8) a ^^^ 0x63).setWidth 64) s
      else failed .badIndex s)) ∧
  (∀ (i : BitVec 4) s, 1 ≤ i.toNat → i.toNat ≤ 8 → exec (.sbox i 0x00) s = .next (completed 0x63 s)) ∧
  (∀ s, exec (.sbox 3 0x80) s = .next (completed 0x6A s)) ∧
  (∀ i rsvd (rest : BitVec 184) a s, execute (commandWord 0x08 i rsvd) (rest ++ a) s =
    if rsvd = 0 then exec (.sbox i a) s else .next (failed .rsvdField s))

/-- `sub` (41_layers.md R141), and the substitution layer: S-box j+1 on byte j (R134). -/
def Obligations.SubAppliesOneSboxPerByte : Prop :=
  (∀ x s, ∃ r, exec (.sub x) s = .next (completed r s) ∧
    ∀ j, j < 8 → byteAt j r = gmul (0xC0 ^^^ BitVec.ofNat 8 (j + 1)) (byteAt j x) ^^^ 0x63) ∧
  (∀ s, exec (.sub 0) s = .next (completed 0x6363636363636363 s) ∧
    exec (.sub 0x0123456789ABCDEF) s = .next (completed 0xA25D01F7EE1C4D87 s)) ∧
  (∀ idx rsvd (rest : BitVec 128) x s, execute (commandWord 0x09 idx rsvd) (rest ++ x) s =
    if idx = 0 ∧ rsvd = 0 then exec (.sub x) s else .next (failed .rsvdField s))

/-- `perm` (41_layers.md R142), and the permutation layer: input byte j goes to output byte (3j+1) mod 8 (R135); applied four
times it is the identity. -/
def Obligations.PermMovesBytes : Prop :=
  (∀ x s, ∃ r, exec (.perm x) s = .next (completed r s) ∧
    ∀ j, j < 8 → byteAt ((3 * j + 1) % 8) r = byteAt j x) ∧
  (∀ x, perml (perml (perml (perml x))) = x) ∧ (∀ b, perml (pack b b b b b b b b) = pack b b b b b b b b) ∧
  (∀ s, exec (.perm 0x0123456789ABCDEF) s = .next (completed 0xAB0167CD2389EF45 s)) ∧
  (∀ idx rsvd (rest : BitVec 128) x s, execute (commandWord 0x0A idx rsvd) (rest ++ x) s =
    if idx = 0 ∧ rsvd = 0 then exec (.perm x) s else .next (failed .rsvdField s))

/-- `mix` (41_layers.md R143), and the mix layer on each of the four byte pairs (R136). -/
def Obligations.MixTransformsBytePairs : Prop :=
  (∀ x s, ∃ r, exec (.mix x) s = .next (completed r s) ∧
    ∀ m, m < 4 →
      byteAt (2 * m) r = gmul 2 (byteAt (2 * m) x) ^^^ byteAt (2 * m + 1) x ∧
      byteAt (2 * m + 1) r = byteAt (2 * m) x ^^^ gmul 3 (byteAt (2 * m + 1) x)) ∧
  (∀ s, exec (.mix 0) s = .next (completed 0 s) ∧
    exec (.mix 0xFFFFFFFFFFFFFFFF) s = .next (completed 0x1CE31CE31CE31CE3 s) ∧
    exec (.mix 0x0123456789ABCDEF) s = .next (completed 0x2164EDECA46968E1 s)) ∧
  (∀ idx rsvd (rest : BitVec 128) x s, execute (commandWord 0x0B idx rsvd) (rest ++ x) s =
    if idx = 0 ∧ rsvd = 0 then exec (.mix x) s else .next (failed .rsvdField s))

/-- `rt` (41_layers.md R144): the result of `mix` on that of `perm` on that of `sub` (R138). -/
def Obligations.RtIsSubThenPermThenMix : Prop :=
  (∀ x s t u v, exec (.sub x) s = .next t → exec (.perm t.result) t = .next u → exec (.mix u.result) u = .next v →
    exec (.rt x) s = .next v) ∧
  (∀ x s, ∃ r, exec (.rt x) s = .next (completed r s)) ∧
  (∀ s, exec (.rt 0) s = .next (completed 0xA5C6A5C6A5C6A5C6 s) ∧
    exec (.rt 0xFFFFFFFFFFFFFFFF) s = .next (completed 0xDF443CEFAFEF07EF s) ∧
    exec (.rt 0x0123456789ABCDEF) s = .next (completed 0x9AE7BE2054721284 s)) ∧
  (∀ idx rsvd (rest : BitVec 128) x s, execute (commandWord 0x0C idx rsvd) (rest ++ x) s =
    if idx = 0 ∧ rsvd = 0 then exec (.rt x) s else .next (failed .rsvdField s))

/-- `blk.setkey` (42_block_cipher.md R167): RK, KEYED, CFB_RDY; KS and KPOS are unchanged. -/
def Obligations.BlkSetkeyInstallsTheSchedule : Prop :=
  (∀ k s, ∃ t, exec (.blkSetkey k) s = .next t ∧ t = { completed 0 s with cipher := .keyed (keySchedule k) s.ks } ∧
    t.rk = some (keySchedule k) ∧ t.keyed = true ∧ t.cfbRdy = false ∧ t.ks = s.ks ∧ t.kpos = s.kpos) ∧
  ((keySchedule 0)[0] = 0xA5C6A5C6A5C6A5C6 ∧ (keySchedule 0)[26] = 0xE518024751556ECD) ∧
  (∀ idx rsvd k (rest : BitVec 64) s, execute (commandWord 0x10 idx rsvd) (k ++ rest) s =
    if idx = 0 ∧ rsvd = 0 then exec (.blkSetkey k) s else .next (failed .rsvdField s))

/-- `blk.enc` (42_block_cipher.md R168): NO_KEY while KEYED = 0, else the encryption of X, with no cipher state changed. -/
def Obligations.BlkEncEncryptsOneBlock : Prop :=
  (∀ x s, s.keyed = false → exec (.blkEnc x) s = .next (failed .noKey s)) ∧
  (∀ x s rk, s.keyed = true → s.rk = some rk → exec (.blkEnc x) s = .next (completed (encrypt rk x) s)) ∧
  (∀ s t, exec (.blkSetkey 0) s = .next t → exec (.blkEnc 0) t = .next (completed 0x59654980FB7DE46B t)) ∧
  (∀ idx rsvd (rest : BitVec 128) x s, execute (commandWord 0x11 idx rsvd) (rest ++ x) s =
    if idx = 0 ∧ rsvd = 0 then exec (.blkEnc x) s else .next (failed .rsvdField s))

/-- `blk.dec` (42_block_cipher.md R169): its own effect is to complete with UNIMPLEMENTED, whatever the state. -/
def Obligations.BlkDecAlwaysFails : Prop :=
  (∀ s, exec .blkDec s = .next (failed .unimplemented s)) ∧
  (∀ idx rsvd cd s, execute (commandWord 0x12 idx rsvd) cd s =
    if idx = 0 ∧ rsvd = 0 then exec .blkDec s else .next (failed .rsvdField s))

/-- `cfb.setkey` (43_cfb.md R201): the schedule, the IV byte by byte into KS, KPOS = 8 and both flags. -/
def Obligations.CfbSetkeyBeginsAStream : Prop :=
  (∀ k iv s, ∃ (ks : Vector Byte 8) (t : State), exec (.cfbSetkey k iv) s = .next t ∧
    t = { completed 0 s with cipher := .streaming (keySchedule k) ks, kpos := 8 } ∧
    t.rk = some (keySchedule k) ∧ t.keyed = true ∧ t.ks = some ks ∧ t.cfbRdy = true ∧
    ∀ j : Fin 8, ks[j] = iv.extractLsb' (56 - 8 * j.val) 8) ∧
  (∀ idx rsvd k iv s, execute (commandWord 0x20 idx rsvd) (k ++ iv) s =
    if idx = 0 ∧ rsvd = 0 then exec (.cfbSetkey k iv) s else .next (failed .rsvdField s))

/-- `cfb.enc` (43_cfb.md R203): NO_CFB while CFB_RDY = 0; in a stream, at KPOS 0..7, the byte at KPOS; at KPOS 8 the buffer is first replaced by
the encryption of its contents (R202), and the byte at 0 follows. The ciphertext byte is fed back. -/
def Obligations.CfbEncEncryptsOneByte : Prop :=
  (∀ a s, s.cfbRdy = false → exec (.cfbEnc a) s = .next (failed .noCfb s)) ∧
  (∀ a s rk ks (k : Fin 8), s.cfbRdy = true → s.rk = some rk → s.ks = some ks → s.kpos.toNat = k.val →
    exec (.cfbEnc a) s =
      .next { completed ((a ^^^ ks[k]).setWidth 64) s with
        cipher := .streaming rk (ks.set k (a ^^^ ks[k])), kpos := BitVec.ofNat 4 (k.val + 1) }) ∧
  (∀ a s rk ks, s.cfbRdy = true → s.rk = some rk → s.ks = some ks → s.kpos = 8 →
    ∃ fresh : Vector Byte 8, packBytes fresh = encrypt rk (packBytes ks) ∧
      exec (.cfbEnc a) s =
        .next { completed ((a ^^^ fresh[0]).setWidth 64) s with
          cipher := .streaming rk (fresh.set 0 (a ^^^ fresh[0])), kpos := 1 }) ∧
  (∀ s t, exec (.cfbSetkey 0 0) s = .next t →
    exec (.cfbEnc 0x00) t =
      .next { completed 0x59 t with cipher := .streaming (keySchedule 0) (unpack 0x59654980FB7DE46B), kpos := 1 }) ∧
  (∀ idx rsvd (rest : BitVec 184) a s, execute (commandWord 0x21 idx rsvd) (rest ++ a) s =
    if idx = 0 ∧ rsvd = 0 then exec (.cfbEnc a) s else .next (failed .rsvdField s))

/-- `cfb.dec` (43_cfb.md R204): as `cfb.enc`, but the byte fed back is the input. -/
def Obligations.CfbDecDecryptsOneByte : Prop :=
  (∀ a s, s.cfbRdy = false → exec (.cfbDec a) s = .next (failed .noCfb s)) ∧
  (∀ a s rk ks (k : Fin 8), s.cfbRdy = true → s.rk = some rk → s.ks = some ks → s.kpos.toNat = k.val →
    exec (.cfbDec a) s =
      .next { completed ((a ^^^ ks[k]).setWidth 64) s with
        cipher := .streaming rk (ks.set k a), kpos := BitVec.ofNat 4 (k.val + 1) }) ∧
  (∀ a s rk ks, s.cfbRdy = true → s.rk = some rk → s.ks = some ks → s.kpos = 8 →
    ∃ fresh : Vector Byte 8, packBytes fresh = encrypt rk (packBytes ks) ∧
      exec (.cfbDec a) s =
        .next { completed ((a ^^^ fresh[0]).setWidth 64) s with
          cipher := .streaming rk (fresh.set 0 a), kpos := 1 }) ∧
  (∀ s t, exec (.cfbSetkey 0 0) s = .next t →
    exec (.cfbDec 0x59) t =
      .next { completed 0x00 t with cipher := .streaming (keySchedule 0) (unpack 0x59654980FB7DE46B), kpos := 1 }) ∧
  (∀ idx rsvd (rest : BitVec 184) a s, execute (commandWord 0x22 idx rsvd) (rest ++ a) s =
    if idx = 0 ∧ rsvd = 0 then exec (.cfbDec a) s else .next (failed .rsvdField s))

/-! ### The arithmetic -/

/-- gmul is the product of polynomials over GF(2) modulo x^8+x^4+x^3+x^2+1 (40_gf_arith.md R111). -/
def Obligations.GmulIsThePolynomialProduct : Prop :=
  ∀ a b : Byte, gmul a b = polyRemainder (polyProduct a b)

/-- The laws of gmul (40_gf_arith.md R119). -/
def Obligations.GmulIsAFieldProduct : Prop :=
  (∀ a, gmul a 0 = 0) ∧ (∀ a, gmul 1 a = a) ∧ (∀ a b, gmul a b = gmul b a) ∧
  (∀ a b c, gmul a (b ^^^ c) = gmul a b ^^^ gmul a c) ∧
  (∀ a b c, gmul (gmul a b) c = gmul a (gmul b c)) ∧
  (∀ a, a ≠ 0 → Function.Bijective (gmul a)) ∧
  (∀ a b, gmul a b = 0 → a = 0 ∨ b = 0)

/-- Multiplication by the mix constants by shifts (40_gf_arith.md R121). -/
def Obligations.GmulByTwoAndThreeAreShifts : Prop :=
  ∀ a : Byte, gmul 2 a = (a <<< 1) ^^^ (if a.getLsbD 7 then 0x1D else 0x00) ∧ gmul 3 a = gmul 2 a ^^^ a

/-- The eight S-boxes are bijections, map 0x00 to 0x63, and are distinct functions (41_layers.md R132). -/
def Obligations.SboxesAreDistinctBijections : Prop :=
  (∀ i : BitVec 4, 1 ≤ i.toNat → i.toNat ≤ 8 → Function.Bijective (sbox i) ∧ sbox i 0x00 = 0x63) ∧
  (∀ i j : BitVec 4, 1 ≤ i.toNat → i.toNat ≤ 8 → 1 ≤ j.toNat → j.toNat ≤ 8 → i ≠ j → sbox i ≠ sbox j)

/-- The mix of one pair is invertible, its determinant being 0x07, so the mix layer is a bijection (41_layers.md R137). -/
def Obligations.MixIsInvertible : Prop :=
  (gmul 2 3 = 0x06 ∧ gmul 1 1 = 0x01 ∧ gmul 2 3 ^^^ gmul 1 1 = 0x07) ∧
  Function.Bijective (fun p : Byte × Byte => (mixFst p.1 p.2, mixSnd p.1 p.2)) ∧ Function.Bijective mixl

/-- The round transform is affine over GF(2) and a bijection (41_layers.md R139). -/
def Obligations.RoundTransformIsAnAffineBijection : Prop :=
  (∀ x y z, rt x ^^^ rt y ^^^ rt z = rt (x ^^^ y ^^^ z)) ∧
  (∃ lin : Block → Block, (∀ x y, lin (x ^^^ y) = lin x ^^^ lin y) ∧ Function.Bijective lin ∧
    ∀ x, rt x = lin x ^^^ rt 0) ∧
  rt 0 = 0xA5C6A5C6A5C6A5C6 ∧ Function.Bijective rt

/-- The rotation of the halves, by 64-bit shifts, is the right rotation of the 128-bit value by 29 (00_scope.md R10). -/
def Obligations.HalvesRotateAsOneWord : Prop :=
  (∀ u l : Block, rotr128 u l = ((u >>> 29) ||| (l <<< 35), (l >>> 29) ||| (u <<< 35))) ∧
  ∀ u l : Block, ((rotr128 u l).1 ++ (rotr128 u l).2 : BitVec 128) = (u ++ l : BitVec 128).rotateRight 29

/-- The key schedule round by round (42_block_cipher.md R160, R161, R162): from the key bytes big-endian, rotate the 128-bit state
right by 29, transform its upper half into RK[r], and XOR r into the lowest byte of the state. -/
def Obligations.KeyScheduleFollowsItsRounds : Prop :=
  ∀ k : Key, ∃ W : Nat → BitVec 128,
    W 0 = pack (keyByte 0 k) (keyByte 1 k) (keyByte 2 k) (keyByte 3 k) (keyByte 4 k) (keyByte 5 k) (keyByte 6 k)
        (keyByte 7 k) ++
      pack (keyByte 8 k) (keyByte 9 k) (keyByte 10 k) (keyByte 11 k) (keyByte 12 k) (keyByte 13 k) (keyByte 14 k)
        (keyByte 15 k) ∧
    ∀ r, 1 ≤ r → r ≤ 27 →
      (keySchedule k).toList[r - 1]? = some (rt (((W (r - 1)).rotateRight 29).extractLsb' 64 64)) ∧
      W r = (rt (((W (r - 1)).rotateRight 29).extractLsb' 64 64) ++
        ((W (r - 1)).rotateRight 29).extractLsb' 0 64 : BitVec 128) ^^^ BitVec.ofNat 128 r

/-- Block encryption round by round: add RK[r], transform, for r = 1..27, and nothing after (42_block_cipher.md R165, R166). -/
def Obligations.EncryptFollowsItsRounds : Prop :=
  ∀ (rk : Vector Block 27) x, ∃ B : Nat → Block, B 0 = x ∧
    (∀ r (h : r < 27), B (r + 1) = rt (B r ^^^ rk[r])) ∧ encrypt rk x = B 27

/-- Encryption is affine in the block, and the difference it makes depends on the input difference alone: 0x00006CE700007530
for bit 0; over the 64 single-bit flips 1106 changed bits in all (mean 17.28), at least 11, at most 23
(42_block_cipher.md R172). -/
def Obligations.EncryptIsAffine : Prop :=
  (∀ rk x y z, encrypt rk x ^^^ encrypt rk y ^^^ encrypt rk z = encrypt rk (x ^^^ y ^^^ z)) ∧
  (∀ rk rk' x x' d, encrypt rk x ^^^ encrypt rk (x ^^^ d) = encrypt rk' x' ^^^ encrypt rk' (x' ^^^ d)) ∧
  (∀ rk x, encrypt rk x ^^^ encrypt rk (x ^^^ 1) = 0x00006CE700007530) ∧
  (∀ rk x, ((List.range 64).map fun i => weight (encrypt rk x ^^^ encrypt rk (x ^^^ (1 <<< i)))).sum = 1106 ∧
    ∀ i, i < 64 → 11 ≤ weight (encrypt rk x ^^^ encrypt rk (x ^^^ (1 <<< i))) ∧
      weight (encrypt rk x ^^^ encrypt rk (x ^^^ (1 <<< i))) ≤ 23)

/-! ### The reference state machines -/

/-- The key-schedule state machine (42_block_cipher.md R164): KS_ROUND with RCNT = 1..27, one round key each, then COMPLETE,
whose remaining effects are those of the set-up command. That the keys are kept in the sequencer until then is log 13. -/
def Obligations.KeyScheduleMachineReachesTheCommand : Prop :=
  ∀ k i s, (i = .blkSetkey k ∨ ∃ iv, i = .cfbSetkey k iv) →
    (∀ n, n < 27 → ∃ w, Sequencer.ticks i s n (Sequencer.start i s) = .ksRound w (BitVec.ofNat 5 (n + 1)) ∧
      w.made = (keySchedule k).toList.take n) ∧
    Sequencer.ticks i s 27 (Sequencer.start i s) = .complete (.keys (keySchedule k).toList) ∧
    ∃ t, Pending.commit i (.keys (keySchedule k).toList) s = some t ∧ exec i s = .next t

/-- The block-encryption state machine (42_block_cipher.md R170): ENC_ROUND with RCNT = 1..27, then COMPLETE with BS the
result of `blk.enc`. -/
def Obligations.BlockMachineReachesTheCommand : Prop :=
  ∀ x s rk, s.keyed = true → s.rk = some rk →
    (∀ n, n < 27 → ∃ bs, Sequencer.ticks (.blkEnc x) s n (Sequencer.start (.blkEnc x) s) =
      .encRound bs (BitVec.ofNat 5 (n + 1))) ∧
    Sequencer.ticks (.blkEnc x) s 27 (Sequencer.start (.blkEnc x) s) = .complete (.block (encrypt rk x)) ∧
    ∃ t, Pending.commit (.blkEnc x) (.block (encrypt rk x)) s = some t ∧ exec (.blkEnc x) s = .next t

/-- The CFB state machine (43_cfb.md R210): a byte command takes one BYTE row, after 27 ENC_ROUND rows and REFILL when KPOS = 8, and
what it then commits is the command's effect. The row after BYTE, which R210 calls IDLE (completion), is COMPLETE in the
model (log 13). -/
def Obligations.ByteMachineReachesTheCommand : Prop :=
  ∀ i s ks rk, isByteCommand i = true → s.cfbRdy = true → s.ks = some ks → s.rk = some rk → s.kpos.toNat ≤ 8 →
    ∃ p t, Sequencer.ticks i s (if s.kpos = 8 then 29 else 1) (Sequencer.start i s) = .complete p ∧
      (s.kpos = 8 → Sequencer.ticks i s 27 (Sequencer.start i s) = .refill (encrypt rk (packBytes ks))) ∧
      Pending.commit i p s = some t ∧ exec i s = .next t

/-! ### The stream -/

/-- Round trip (43_cfb.md R205): decrypting, after a fresh `cfb.setkey` with the same key and IV, what encryption gave, gives the
plaintext back, and both runs leave the same KS and KPOS. -/
def Obligations.CfbDecryptionUndoesEncryption : Prop :=
  ∀ k iv (plain : List Byte) s, ∃ (cipher : List Byte) (t u : State), cipher.length = plain.length ∧
    runCommands (.cfbSetkey k iv :: plain.map .cfbEnc) s = some (0 :: cipher.map (·.setWidth 64), t) ∧
    runCommands (.cfbSetkey k iv :: cipher.map .cfbDec) t = some (0 :: plain.map (·.setWidth 64), u) ∧
    u.ks = t.ks ∧ u.kpos = t.kpos

/-- Regeneration (43_cfb.md R206): after `cfb.setkey` and any byte commands, in any mix, the next byte command regenerates,
which is KPOS = 8 at its start, exactly when their number is a multiple of 8; n of them regenerate ⌈n/8⌉ times; none
fails. -/
def Obligations.EveryEighthByteRegenerates : Prop :=
  ∀ k iv (bytes : List Instr) s, (∀ i ∈ bytes, isByteCommand i = true) →
    regenerations (.cfbSetkey k iv :: bytes) s = (bytes.length + 7) / 8 ∧
    ∃ results t, runCommands (.cfbSetkey k iv :: bytes) s = some (results, t) ∧ t.err = .none ∧ t.cfbRdy = true ∧
      t.kpos.toNat = (if bytes.length = 0 then 8 else (bytes.length - 1) % 8 + 1) ∧
      (t.kpos = 8 ↔ bytes.length % 8 = 0)

/-- The block view (43_cfb.md R207): over whole blocks, the ciphertext stream is full-block cipher feedback from the IV. -/
def Obligations.CfbStreamIsFullBlockFeedback : Prop :=
  ∀ k iv (blocks : List Block) s, ∃ t,
    runCommands (.cfbSetkey k iv :: (blocks.flatMap bytesOf).map .cfbEnc) s =
      some (0 :: ((feedbackChain (keySchedule k) iv blocks).flatMap bytesOf).map (·.setWidth 64), t)

/-- The stream and the block commands (43_cfb.md R211): `blk.enc` in the middle of a stream changes no later byte, and after
`blk.setkey` every byte command fails with NO_CFB until a new `cfb.setkey`. -/
def Obligations.BlockCommandsAndStreams : Prop :=
  (∀ x i s t, isByteCommand i = true → exec (.blkEnc x) s = .next t →
    t.ks = s.ks ∧ t.kpos = s.kpos ∧ t.cfbRdy = s.cfbRdy ∧ exec i t = exec i s) ∧
  (∀ k (between : List Instr) i s t results, (∀ j ∈ between, isCfbSetkey j = false) → isByteCommand i = true →
    runCommands (.blkSetkey k :: between) s = some (results, t) → exec i t = .next (failed .noCfb t))
end

