-- ==== Sys2Proof/Laws/Bytes.lean ====
section
/-! SUPPORT. The byte views of a block: pack and unpack are inverse to each other (00_scope.md R9). -/

namespace Sys2Proof.Machine

/-- Which bit of which byte a bit of a packed block is. -/
theorem getLsbD_pack (b0 b1 b2 b3 b4 b5 b6 b7 : Byte) (j : Nat) :
    (pack b0 b1 b2 b3 b4 b5 b6 b7).getLsbD j =
      if j < 8 then b7.getLsbD j else if j < 16 then b6.getLsbD (j - 8)
      else if j < 24 then b5.getLsbD (j - 16) else if j < 32 then b4.getLsbD (j - 24)
      else if j < 40 then b3.getLsbD (j - 32) else if j < 48 then b2.getLsbD (j - 40)
      else if j < 56 then b1.getLsbD (j - 48) else b0.getLsbD (j - 56) := by
  unfold pack
  rw [show (b0 ++ b1 ++ b2 ++ b3 ++ b4 ++ b5 ++ b6 ++ b7 : BitVec 64).getLsbD j =
    (b0 ++ b1 ++ b2 ++ b3 ++ b4 ++ b5 ++ b6 ++ b7).getLsbD j from rfl]
  simp only [BitVec.getLsbD_append, Nat.sub_sub]
  repeat' split
  all_goals first | rfl | omega

section

variable (b0 b1 b2 b3 b4 b5 b6 b7 : Byte)

@[simp] theorem byteAt_pack_0 : byteAt 0 (pack b0 b1 b2 b3 b4 b5 b6 b7) = b0 := by
  ext j hj
  rw [byteAt, BitVec.getElem_extractLsb', getLsbD_pack, if_neg (by omega), if_neg (by omega), if_neg (by omega), if_neg (by omega), if_neg (by omega), if_neg (by omega), if_neg (by omega), ← BitVec.getLsbD_eq_getElem hj]
  exact congrArg _ (by omega)

@[simp] theorem byteAt_pack_1 : byteAt 1 (pack b0 b1 b2 b3 b4 b5 b6 b7) = b1 := by
  ext j hj
  rw [byteAt, BitVec.getElem_extractLsb', getLsbD_pack, if_neg (by omega), if_neg (by omega), if_neg (by omega), if_neg (by omega), if_neg (by omega), if_neg (by omega), if_pos (by omega), ← BitVec.getLsbD_eq_getElem hj]
  exact congrArg _ (by omega)

@[simp] theorem byteAt_pack_2 : byteAt 2 (pack b0 b1 b2 b3 b4 b5 b6 b7) = b2 := by
  ext j hj
  rw [byteAt, BitVec.getElem_extractLsb', getLsbD_pack, if_neg (by omega), if_neg (by omega), if_neg (by omega), if_neg (by omega), if_neg (by omega), if_pos (by omega), ← BitVec.getLsbD_eq_getElem hj]
  exact congrArg _ (by omega)

@[simp] theorem byteAt_pack_3 : byteAt 3 (pack b0 b1 b2 b3 b4 b5 b6 b7) = b3 := by
  ext j hj
  rw [byteAt, BitVec.getElem_extractLsb', getLsbD_pack, if_neg (by omega), if_neg (by omega), if_neg (by omega), if_neg (by omega), if_pos (by omega), ← BitVec.getLsbD_eq_getElem hj]
  exact congrArg _ (by omega)

@[simp] theorem byteAt_pack_4 : byteAt 4 (pack b0 b1 b2 b3 b4 b5 b6 b7) = b4 := by
  ext j hj
  rw [byteAt, BitVec.getElem_extractLsb', getLsbD_pack, if_neg (by omega), if_neg (by omega), if_neg (by omega), if_pos (by omega), ← BitVec.getLsbD_eq_getElem hj]
  exact congrArg _ (by omega)

@[simp] theorem byteAt_pack_5 : byteAt 5 (pack b0 b1 b2 b3 b4 b5 b6 b7) = b5 := by
  ext j hj
  rw [byteAt, BitVec.getElem_extractLsb', getLsbD_pack, if_neg (by omega), if_neg (by omega), if_pos (by omega), ← BitVec.getLsbD_eq_getElem hj]
  exact congrArg _ (by omega)

@[simp] theorem byteAt_pack_6 : byteAt 6 (pack b0 b1 b2 b3 b4 b5 b6 b7) = b6 := by
  ext j hj
  rw [byteAt, BitVec.getElem_extractLsb', getLsbD_pack, if_neg (by omega), if_pos (by omega), ← BitVec.getLsbD_eq_getElem hj]
  exact congrArg _ (by omega)

@[simp] theorem byteAt_pack_7 : byteAt 7 (pack b0 b1 b2 b3 b4 b5 b6 b7) = b7 := by
  ext j hj
  rw [byteAt, BitVec.getElem_extractLsb', getLsbD_pack, if_pos (by omega), ← BitVec.getLsbD_eq_getElem hj]
  exact congrArg _ (by omega)

/-- `pack(unpack(x)) = x` (R9). -/
@[simp] theorem pack_byteAt (x : Block) :
    pack (byteAt 0 x) (byteAt 1 x) (byteAt 2 x) (byteAt 3 x) (byteAt 4 x) (byteAt 5 x) (byteAt 6 x) (byteAt 7 x) = x := by
  apply BitVec.eq_of_getLsbD_eq
  intro j hj
  rw [getLsbD_pack]
  repeat' split
  all_goals
    rw [byteAt, BitVec.getLsbD_extractLsb', decide_eq_true (by omega), Bool.true_and]
    exact congrArg _ (by omega)

@[simp] theorem packBytes_unpack (x : Block) : packBytes (unpack x) = x := pack_byteAt x

/-- A block is its eight bytes. -/
theorem block_ext {x y : Block} (h : ∀ j, j < 8 → byteAt j x = byteAt j y) : x = y := by
  rw [← pack_byteAt x, ← pack_byteAt y, h 0 (by omega), h 1 (by omega), h 2 (by omega), h 3 (by omega),
    h 4 (by omega), h 5 (by omega), h 6 (by omega), h 7 (by omega)]

@[simp] theorem unpack_packBytes (v : Vector Byte 8) : unpack (packBytes v) = v := by
  ext j hj
  match j, hj with
  | 0, _ | 1, _ | 2, _ | 3, _ | 4, _ | 5, _ | 6, _ | 7, _ => simp [unpack, packBytes]

end

end Sys2Proof.Machine
end

