-- ==== Sys2Proof/Laws/State.lean ====
section
/-! SUPPORT. What each register update leaves in each field: one lemma per field or view per update, true by rfl. -/

namespace Sys2Proof.Machine

variable (s : State)

@[simp] theorem State.complete_cipher (v : Block) : (s.complete v).cipher = s.cipher := rfl
@[simp] theorem State.complete_rk (v : Block) : (s.complete v).rk = s.rk := rfl
@[simp] theorem State.complete_keyed (v : Block) : (s.complete v).keyed = s.keyed := rfl
@[simp] theorem State.complete_ks (v : Block) : (s.complete v).ks = s.ks := rfl
@[simp] theorem State.complete_cfbRdy (v : Block) : (s.complete v).cfbRdy = s.cfbRdy := rfl
@[simp] theorem State.complete_kpos (v : Block) : (s.complete v).kpos = s.kpos := rfl
@[simp] theorem State.complete_err (v : Block) : (s.complete v).err = ErrCode.none := rfl
@[simp] theorem State.complete_result (v : Block) : (s.complete v).result = v := rfl
@[simp] theorem State.complete_done (v : Block) : (s.complete v).done = true := rfl
@[simp] theorem State.complete_inflight (v : Block) : (s.complete v).inflight = none := rfl
@[simp] theorem State.complete_pins (v : Block) : (s.complete v).pins = s.pins := rfl
@[simp] theorem State.complete_draws (v : Block) : (s.complete v).draws = s.draws := rfl

@[simp] theorem State.raiseErr_cipher (c : ErrCode) : (s.raiseErr c).cipher = s.cipher := rfl
@[simp] theorem State.raiseErr_rk (c : ErrCode) : (s.raiseErr c).rk = s.rk := rfl
@[simp] theorem State.raiseErr_keyed (c : ErrCode) : (s.raiseErr c).keyed = s.keyed := rfl
@[simp] theorem State.raiseErr_ks (c : ErrCode) : (s.raiseErr c).ks = s.ks := rfl
@[simp] theorem State.raiseErr_cfbRdy (c : ErrCode) : (s.raiseErr c).cfbRdy = s.cfbRdy := rfl
@[simp] theorem State.raiseErr_kpos (c : ErrCode) : (s.raiseErr c).kpos = s.kpos := rfl
@[simp] theorem State.raiseErr_err (c : ErrCode) : (s.raiseErr c).err = c := rfl
@[simp] theorem State.raiseErr_result (c : ErrCode) : (s.raiseErr c).result = 0 := rfl
@[simp] theorem State.raiseErr_done (c : ErrCode) : (s.raiseErr c).done = true := rfl
@[simp] theorem State.raiseErr_inflight (c : ErrCode) : (s.raiseErr c).inflight = none := rfl
@[simp] theorem State.raiseErr_pins (c : ErrCode) : (s.raiseErr c).pins = s.pins := rfl
@[simp] theorem State.raiseErr_draws (c : ErrCode) : (s.raiseErr c).draws = s.draws := rfl

@[simp] theorem State.installKeys_cipher (rk : Vector Block 27) : (s.installKeys rk).cipher = .keyed rk s.ks := rfl
@[simp] theorem State.installKeys_rk (rk : Vector Block 27) : (s.installKeys rk).rk = some rk := rfl
@[simp] theorem State.installKeys_keyed (rk : Vector Block 27) : (s.installKeys rk).keyed = true := rfl
@[simp] theorem State.installKeys_ks (rk : Vector Block 27) : (s.installKeys rk).ks = s.ks := rfl
@[simp] theorem State.installKeys_cfbRdy (rk : Vector Block 27) : (s.installKeys rk).cfbRdy = false := rfl
@[simp] theorem State.installKeys_kpos (rk : Vector Block 27) : (s.installKeys rk).kpos = s.kpos := rfl
@[simp] theorem State.installKeys_err (rk : Vector Block 27) : (s.installKeys rk).err = s.err := rfl
@[simp] theorem State.installKeys_result (rk : Vector Block 27) : (s.installKeys rk).result = s.result := rfl
@[simp] theorem State.installKeys_done (rk : Vector Block 27) : (s.installKeys rk).done = s.done := rfl
@[simp] theorem State.installKeys_inflight (rk : Vector Block 27) : (s.installKeys rk).inflight = s.inflight := rfl
@[simp] theorem State.installKeys_pins (rk : Vector Block 27) : (s.installKeys rk).pins = s.pins := rfl
@[simp] theorem State.installKeys_draws (rk : Vector Block 27) : (s.installKeys rk).draws = s.draws := rfl

@[simp] theorem State.beginStream_cipher (rk : Vector Block 27) (iv : Vector Byte 8) : (s.beginStream rk iv).cipher = .streaming rk iv := rfl
@[simp] theorem State.beginStream_rk (rk : Vector Block 27) (iv : Vector Byte 8) : (s.beginStream rk iv).rk = some rk := rfl
@[simp] theorem State.beginStream_keyed (rk : Vector Block 27) (iv : Vector Byte 8) : (s.beginStream rk iv).keyed = true := rfl
@[simp] theorem State.beginStream_ks (rk : Vector Block 27) (iv : Vector Byte 8) : (s.beginStream rk iv).ks = some iv := rfl
@[simp] theorem State.beginStream_cfbRdy (rk : Vector Block 27) (iv : Vector Byte 8) : (s.beginStream rk iv).cfbRdy = true := rfl
@[simp] theorem State.beginStream_kpos (rk : Vector Block 27) (iv : Vector Byte 8) : (s.beginStream rk iv).kpos = 8 := rfl
@[simp] theorem State.beginStream_err (rk : Vector Block 27) (iv : Vector Byte 8) : (s.beginStream rk iv).err = s.err := rfl
@[simp] theorem State.beginStream_result (rk : Vector Block 27) (iv : Vector Byte 8) : (s.beginStream rk iv).result = s.result := rfl
@[simp] theorem State.beginStream_done (rk : Vector Block 27) (iv : Vector Byte 8) : (s.beginStream rk iv).done = s.done := rfl
@[simp] theorem State.beginStream_inflight (rk : Vector Block 27) (iv : Vector Byte 8) : (s.beginStream rk iv).inflight = s.inflight := rfl
@[simp] theorem State.beginStream_pins (rk : Vector Block 27) (iv : Vector Byte 8) : (s.beginStream rk iv).pins = s.pins := rfl
@[simp] theorem State.beginStream_draws (rk : Vector Block 27) (iv : Vector Byte 8) : (s.beginStream rk iv).draws = s.draws := rfl

@[simp] theorem State.writeStream_cipher (rk : Vector Block 27) (ks : Vector Byte 8) (k : BitVec 4) : (s.writeStream rk ks k).cipher = .streaming rk ks := rfl
@[simp] theorem State.writeStream_rk (rk : Vector Block 27) (ks : Vector Byte 8) (k : BitVec 4) : (s.writeStream rk ks k).rk = some rk := rfl
@[simp] theorem State.writeStream_keyed (rk : Vector Block 27) (ks : Vector Byte 8) (k : BitVec 4) : (s.writeStream rk ks k).keyed = true := rfl
@[simp] theorem State.writeStream_ks (rk : Vector Block 27) (ks : Vector Byte 8) (k : BitVec 4) : (s.writeStream rk ks k).ks = some ks := rfl
@[simp] theorem State.writeStream_cfbRdy (rk : Vector Block 27) (ks : Vector Byte 8) (k : BitVec 4) : (s.writeStream rk ks k).cfbRdy = true := rfl
@[simp] theorem State.writeStream_kpos (rk : Vector Block 27) (ks : Vector Byte 8) (k : BitVec 4) : (s.writeStream rk ks k).kpos = k := rfl
@[simp] theorem State.writeStream_err (rk : Vector Block 27) (ks : Vector Byte 8) (k : BitVec 4) : (s.writeStream rk ks k).err = s.err := rfl
@[simp] theorem State.writeStream_result (rk : Vector Block 27) (ks : Vector Byte 8) (k : BitVec 4) : (s.writeStream rk ks k).result = s.result := rfl
@[simp] theorem State.writeStream_done (rk : Vector Block 27) (ks : Vector Byte 8) (k : BitVec 4) : (s.writeStream rk ks k).done = s.done := rfl
@[simp] theorem State.writeStream_inflight (rk : Vector Block 27) (ks : Vector Byte 8) (k : BitVec 4) : (s.writeStream rk ks k).inflight = s.inflight := rfl
@[simp] theorem State.writeStream_pins (rk : Vector Block 27) (ks : Vector Byte 8) (k : BitVec 4) : (s.writeStream rk ks k).pins = s.pins := rfl
@[simp] theorem State.writeStream_draws (rk : Vector Block 27) (ks : Vector Byte 8) (k : BitVec 4) : (s.writeStream rk ks k).draws = s.draws := rfl

@[simp] theorem State.sampled_cipher : s.sampled.cipher = s.cipher := rfl
@[simp] theorem State.sampled_rk : s.sampled.rk = s.rk := rfl
@[simp] theorem State.sampled_keyed : s.sampled.keyed = s.keyed := rfl
@[simp] theorem State.sampled_ks : s.sampled.ks = s.ks := rfl
@[simp] theorem State.sampled_cfbRdy : s.sampled.cfbRdy = s.cfbRdy := rfl
@[simp] theorem State.sampled_kpos : s.sampled.kpos = s.kpos := rfl
@[simp] theorem State.sampled_err : s.sampled.err = s.err := rfl
@[simp] theorem State.sampled_result : s.sampled.result = s.result := rfl
@[simp] theorem State.sampled_done : s.sampled.done = s.done := rfl
@[simp] theorem State.sampled_inflight : s.sampled.inflight = s.inflight := rfl
@[simp] theorem State.sampled_pins : s.sampled.pins = s.pins.tail := rfl
@[simp] theorem State.sampled_draws : s.sampled.draws = s.draws := rfl

@[simp] theorem State.latch_cipher (cw : CmdWord) (cd : CmdData) (left : Nat) (q : Sequencer) : (s.latch cw cd left q).cipher = s.cipher := rfl
@[simp] theorem State.latch_rk (cw : CmdWord) (cd : CmdData) (left : Nat) (q : Sequencer) : (s.latch cw cd left q).rk = s.rk := rfl
@[simp] theorem State.latch_keyed (cw : CmdWord) (cd : CmdData) (left : Nat) (q : Sequencer) : (s.latch cw cd left q).keyed = s.keyed := rfl
@[simp] theorem State.latch_ks (cw : CmdWord) (cd : CmdData) (left : Nat) (q : Sequencer) : (s.latch cw cd left q).ks = s.ks := rfl
@[simp] theorem State.latch_cfbRdy (cw : CmdWord) (cd : CmdData) (left : Nat) (q : Sequencer) : (s.latch cw cd left q).cfbRdy = s.cfbRdy := rfl
@[simp] theorem State.latch_kpos (cw : CmdWord) (cd : CmdData) (left : Nat) (q : Sequencer) : (s.latch cw cd left q).kpos = s.kpos := rfl
@[simp] theorem State.latch_err (cw : CmdWord) (cd : CmdData) (left : Nat) (q : Sequencer) : (s.latch cw cd left q).err = s.err := rfl
@[simp] theorem State.latch_result (cw : CmdWord) (cd : CmdData) (left : Nat) (q : Sequencer) : (s.latch cw cd left q).result = s.result := rfl
@[simp] theorem State.latch_done (cw : CmdWord) (cd : CmdData) (left : Nat) (q : Sequencer) : (s.latch cw cd left q).done = s.done := rfl
@[simp] theorem State.latch_inflight (cw : CmdWord) (cd : CmdData) (left : Nat) (q : Sequencer) : (s.latch cw cd left q).inflight = some { cw := cw, cd := cd, left := left, seq := q } := rfl
@[simp] theorem State.latch_pins (cw : CmdWord) (cd : CmdData) (left : Nat) (q : Sequencer) : (s.latch cw cd left q).pins = s.pins := rfl
@[simp] theorem State.latch_draws (cw : CmdWord) (cd : CmdData) (left : Nat) (q : Sequencer) : (s.latch cw cd left q).draws = s.draws := rfl

@[simp] theorem State.idleEdge_cipher : s.idleEdge.cipher = s.cipher := rfl
@[simp] theorem State.idleEdge_rk : s.idleEdge.rk = s.rk := rfl
@[simp] theorem State.idleEdge_keyed : s.idleEdge.keyed = s.keyed := rfl
@[simp] theorem State.idleEdge_ks : s.idleEdge.ks = s.ks := rfl
@[simp] theorem State.idleEdge_cfbRdy : s.idleEdge.cfbRdy = s.cfbRdy := rfl
@[simp] theorem State.idleEdge_kpos : s.idleEdge.kpos = s.kpos := rfl
@[simp] theorem State.idleEdge_err : s.idleEdge.err = s.err := rfl
@[simp] theorem State.idleEdge_result : s.idleEdge.result = s.result := rfl
@[simp] theorem State.idleEdge_done : s.idleEdge.done = false := rfl
@[simp] theorem State.idleEdge_inflight : s.idleEdge.inflight = s.inflight := rfl
@[simp] theorem State.idleEdge_pins : s.idleEdge.pins = s.pins := rfl
@[simp] theorem State.idleEdge_draws : s.idleEdge.draws = s.draws := rfl

@[simp] theorem State.waitEdge_cipher (f : InFlight) (left : Nat) (q : Sequencer) : (s.waitEdge f left q).cipher = s.cipher := rfl
@[simp] theorem State.waitEdge_rk (f : InFlight) (left : Nat) (q : Sequencer) : (s.waitEdge f left q).rk = s.rk := rfl
@[simp] theorem State.waitEdge_keyed (f : InFlight) (left : Nat) (q : Sequencer) : (s.waitEdge f left q).keyed = s.keyed := rfl
@[simp] theorem State.waitEdge_ks (f : InFlight) (left : Nat) (q : Sequencer) : (s.waitEdge f left q).ks = s.ks := rfl
@[simp] theorem State.waitEdge_cfbRdy (f : InFlight) (left : Nat) (q : Sequencer) : (s.waitEdge f left q).cfbRdy = s.cfbRdy := rfl
@[simp] theorem State.waitEdge_kpos (f : InFlight) (left : Nat) (q : Sequencer) : (s.waitEdge f left q).kpos = s.kpos := rfl
@[simp] theorem State.waitEdge_err (f : InFlight) (left : Nat) (q : Sequencer) : (s.waitEdge f left q).err = s.err := rfl
@[simp] theorem State.waitEdge_result (f : InFlight) (left : Nat) (q : Sequencer) : (s.waitEdge f left q).result = s.result := rfl
@[simp] theorem State.waitEdge_done (f : InFlight) (left : Nat) (q : Sequencer) : (s.waitEdge f left q).done = false := rfl
@[simp] theorem State.waitEdge_inflight (f : InFlight) (left : Nat) (q : Sequencer) : (s.waitEdge f left q).inflight = some { f with left := left, seq := q } := rfl
@[simp] theorem State.waitEdge_pins (f : InFlight) (left : Nat) (q : Sequencer) : (s.waitEdge f left q).pins = s.pins := rfl
@[simp] theorem State.waitEdge_draws (f : InFlight) (left : Nat) (q : Sequencer) : (s.waitEdge f left q).draws = s.draws := rfl

@[simp] theorem State.acceptEdge_cipher (cw : CmdWord) (cd : CmdData) (left : Nat) (q : Sequencer) : (s.acceptEdge cw cd left q).cipher = s.cipher := rfl
@[simp] theorem State.acceptEdge_rk (cw : CmdWord) (cd : CmdData) (left : Nat) (q : Sequencer) : (s.acceptEdge cw cd left q).rk = s.rk := rfl
@[simp] theorem State.acceptEdge_keyed (cw : CmdWord) (cd : CmdData) (left : Nat) (q : Sequencer) : (s.acceptEdge cw cd left q).keyed = s.keyed := rfl
@[simp] theorem State.acceptEdge_ks (cw : CmdWord) (cd : CmdData) (left : Nat) (q : Sequencer) : (s.acceptEdge cw cd left q).ks = s.ks := rfl
@[simp] theorem State.acceptEdge_cfbRdy (cw : CmdWord) (cd : CmdData) (left : Nat) (q : Sequencer) : (s.acceptEdge cw cd left q).cfbRdy = s.cfbRdy := rfl
@[simp] theorem State.acceptEdge_kpos (cw : CmdWord) (cd : CmdData) (left : Nat) (q : Sequencer) : (s.acceptEdge cw cd left q).kpos = s.kpos := rfl
@[simp] theorem State.acceptEdge_err (cw : CmdWord) (cd : CmdData) (left : Nat) (q : Sequencer) : (s.acceptEdge cw cd left q).err = s.err := rfl
@[simp] theorem State.acceptEdge_result (cw : CmdWord) (cd : CmdData) (left : Nat) (q : Sequencer) : (s.acceptEdge cw cd left q).result = s.result := rfl
@[simp] theorem State.acceptEdge_done (cw : CmdWord) (cd : CmdData) (left : Nat) (q : Sequencer) : (s.acceptEdge cw cd left q).done = false := rfl
@[simp] theorem State.acceptEdge_inflight (cw : CmdWord) (cd : CmdData) (left : Nat) (q : Sequencer) : (s.acceptEdge cw cd left q).inflight = some { cw := cw, cd := cd, left := left, seq := q } := rfl
@[simp] theorem State.acceptEdge_pins (cw : CmdWord) (cd : CmdData) (left : Nat) (q : Sequencer) : (s.acceptEdge cw cd left q).pins = s.pins := rfl
@[simp] theorem State.acceptEdge_draws (cw : CmdWord) (cd : CmdData) (left : Nat) (q : Sequencer) : (s.acceptEdge cw cd left q).draws = s.draws + 1 := rfl

@[simp] theorem State.resetEdge_cipher : s.resetEdge.cipher = .unkeyed := rfl
@[simp] theorem State.resetEdge_rk : s.resetEdge.rk = none := rfl
@[simp] theorem State.resetEdge_keyed : s.resetEdge.keyed = false := rfl
@[simp] theorem State.resetEdge_ks : s.resetEdge.ks = none := rfl
@[simp] theorem State.resetEdge_cfbRdy : s.resetEdge.cfbRdy = false := rfl
@[simp] theorem State.resetEdge_kpos : s.resetEdge.kpos = 8 := rfl
@[simp] theorem State.resetEdge_err : s.resetEdge.err = ErrCode.none := rfl
@[simp] theorem State.resetEdge_result : s.resetEdge.result = 0 := rfl
@[simp] theorem State.resetEdge_done : s.resetEdge.done = false := rfl
@[simp] theorem State.resetEdge_inflight : s.resetEdge.inflight = none := rfl
@[simp] theorem State.resetEdge_pins : s.resetEdge.pins = s.pins := rfl
@[simp] theorem State.resetEdge_draws : s.resetEdge.draws = s.draws := rfl

/-! The edges that run no command leave the architectural registers as they are. -/

@[simp] theorem State.sampled_arch : s.sampled.arch = s.arch := rfl
@[simp] theorem State.idleEdge_arch : s.idleEdge.arch = s.arch := rfl
@[simp] theorem State.waitEdge_arch (f : InFlight) (left : Nat) (q : Sequencer) : (s.waitEdge f left q).arch = s.arch := rfl
@[simp] theorem State.acceptEdge_arch (cw : CmdWord) (cd : CmdData) (left : Nat) (q : Sequencer) : (s.acceptEdge cw cd left q).arch = s.arch := rfl

/-! The views of the cipher state, by what it is. -/

variable {s} {rk : Vector Block 27} {b : Option (Vector Byte 8)} {ks : Vector Byte 8}

theorem State.rk_of_unkeyed (h : s.cipher = .unkeyed) : s.rk = none := by simp [State.rk, h, CipherState.rk]
theorem State.keyed_of_unkeyed (h : s.cipher = .unkeyed) : s.keyed = false := by simp [State.keyed, h]
theorem State.ks_of_unkeyed (h : s.cipher = .unkeyed) : s.ks = none := by simp [State.ks, h, CipherState.ks]
theorem State.cfbRdy_of_unkeyed (h : s.cipher = .unkeyed) : s.cfbRdy = false := by simp [State.cfbRdy, h]
theorem State.rk_of_keyed (h : s.cipher = .keyed rk b) : s.rk = some rk := by simp [State.rk, h, CipherState.rk]
theorem State.keyed_of_keyed (h : s.cipher = .keyed rk b) : s.keyed = true := by simp [State.keyed, h]
theorem State.ks_of_keyed (h : s.cipher = .keyed rk b) : s.ks = b := by simp [State.ks, h, CipherState.ks]
theorem State.cfbRdy_of_keyed (h : s.cipher = .keyed rk b) : s.cfbRdy = false := by simp [State.cfbRdy, h]
theorem State.rk_of_streaming (h : s.cipher = .streaming rk ks) : s.rk = some rk := by simp [State.rk, h, CipherState.rk]
theorem State.keyed_of_streaming (h : s.cipher = .streaming rk ks) : s.keyed = true := by simp [State.keyed, h]
theorem State.ks_of_streaming (h : s.cipher = .streaming rk ks) : s.ks = some ks := by simp [State.ks, h, CipherState.ks]
theorem State.cfbRdy_of_streaming (h : s.cipher = .streaming rk ks) : s.cfbRdy = true := by simp [State.cfbRdy, h]

/-- KEYED = 0 only before any set-up command. -/
theorem State.cipher_of_keyed_false (h : s.keyed = false) : s.cipher = .unkeyed := by
  cases hc : s.cipher with
  | unkeyed => rfl
  | keyed rk b => simp [State.keyed, hc] at h
  | streaming rk ks => simp [State.keyed, hc] at h

/-- The cipher state of a stream, from its views. -/
theorem State.cipher_of_views (hr : s.cfbRdy = true) (hrk : s.rk = some rk) (hks : s.ks = some ks) :
    s.cipher = .streaming rk ks := by
  cases hc : s.cipher with
  | unkeyed => simp [State.cfbRdy, hc] at hr
  | keyed rk b => simp [State.cfbRdy, hc] at hr
  | streaming rk' ks' =>
    rw [State.rk_of_streaming hc, Option.some.injEq] at hrk
    rw [State.ks_of_streaming hc, Option.some.injEq] at hks
    rw [hrk, hks]

end Sys2Proof.Machine
end

