-- ==== Sys2Proof/Laws/Ops.lean ====
section
/-! SUPPORT. What each shared operation can do, said once: cite these instead of unfolding the operation. -/

namespace Sys2Proof.Machine

/-- At KPOS = 8 a byte command works on the regenerated buffer from position 0 (43_cfb.md R202). -/
@[simp] theorem streamBuffer_spent (rk : Vector Block 27) (ks : Vector Byte 8) :
    streamBuffer rk ks 8 = (regen rk ks, 0) := rfl

/-- At any other KPOS a byte command works on the buffer as it is (R203). -/
theorem streamBuffer_held {rk : Vector Block 27} {ks : Vector Byte 8} {k : BitVec 4} (h : k ≠ 8) :
    streamBuffer rk ks k = (ks, k) := if_neg h

/-- From a KPOS in 0..8 the byte step is at an index of the buffer (10_state.md R25). -/
theorem streamBuffer_index {rk : Vector Block 27} {ks : Vector Byte 8} {k : BitVec 4} (h : k.toNat ≤ 8) :
    (streamBuffer rk ks k).2.toNat < 8 := by
  by_cases hk : k = 8
  · subst hk
    exact show (0#4).toNat < 8 by decide
  · rw [streamBuffer_held hk]
    have : k.toNat ≠ 8 := fun e => hk (BitVec.eq_of_toNat_eq e)
    exact Nat.lt_of_le_of_ne h this

/-- The byte step at an index of the buffer (R203, R204). -/
theorem byteStep_index {d : Direction} {a : Byte} {ks : Vector Byte 8} {k : BitVec 4} (h : k.toNat < 8) :
    byteStep d a ks k =
      some (a ^^^ ks[k.toNat], ks.set k.toNat (d.feedback a (a ^^^ ks[k.toNat])), k + 1) := by
  simp [byteStep, h]

/-- All that a byte command can answer (R203, R204): NO_CFB, or the byte step on the buffer. -/
theorem cfbByte_next {d : Direction} {a : Byte} {s t : State} (h : cfbByte d a s = .next t) :
    (s.cfbRdy = false ∧ t = s.raiseErr .noCfb) ∨
      ∃ rk ks out ks' k', s.cipher = .streaming rk ks ∧
        byteStep d a (streamBuffer rk ks s.kpos).1 (streamBuffer rk ks s.kpos).2 = some (out, ks', k') ∧
        t = (s.writeStream rk ks' k').complete (zextByte out) := by
  unfold cfbByte at h
  split at h
  · rename_i hc
    cases h
    exact .inl ⟨State.cfbRdy_of_unkeyed hc, rfl⟩
  · rename_i hc
    cases h
    exact .inl ⟨State.cfbRdy_of_keyed hc, rfl⟩
  · rename_i rk ks hc
    split at h
    · cases h
    · rename_i out ks' k' hs
      cases h
      exact .inr ⟨rk, ks, out, ks', k', hc, hs, rfl⟩

/-- All that `blk.enc` can answer (42_block_cipher.md R168): NO_KEY, or the encryption under RK. It always answers. -/
theorem execBlkEnc_next (x : Block) (s : State) :
    (s.keyed = false ∧ execBlkEnc x s = .next (s.raiseErr .noKey)) ∨
      ∃ rk, s.keyed = true ∧ s.rk = some rk ∧ execBlkEnc x s = .next (s.complete (encrypt rk x)) := by
  unfold execBlkEnc
  cases hc : s.cipher with
  | unkeyed => exact .inl ⟨State.keyed_of_unkeyed hc, rfl⟩
  | keyed rk b => exact .inr ⟨rk, State.keyed_of_keyed hc, State.rk_of_keyed hc, rfl⟩
  | streaming rk ks => exact .inr ⟨rk, State.keyed_of_streaming hc, State.rk_of_streaming hc, rfl⟩

/-- Every command that goes on completes (44_control.md R231): `done` rises, nothing is in flight, and the host's script
and the count of acceptances are as before. -/
theorem exec_next_completes {i : Instr} {s t : State} (h : exec i s = .next t) :
    t.done = true ∧ t.inflight = none ∧ t.pins = s.pins ∧ t.draws = s.draws := by
  cases i with
  | nop => cases h; simp
  | gfMul a b => cases h; simp
  | gfAdd a b => cases h; simp
  | sbox n a =>
    simp only [exec, execSbox] at h
    split at h <;> cases h <;> simp
  | sub x => cases h; simp
  | perm x => cases h; simp
  | mix x => cases h; simp
  | rt x => cases h; simp
  | blkSetkey k => cases h; simp
  | blkEnc x =>
    rcases execBlkEnc_next x s with ⟨-, he⟩ | ⟨rk, -, -, he⟩ <;> rw [exec, he] at h <;> cases h <;> simp
  | blkDec => cases h; simp
  | cfbSetkey k iv => cases h; simp
  | cfbEnc a | cfbDec a =>
    rcases cfbByte_next h with ⟨-, rfl⟩ | ⟨_, _, _, _, _, -, -, rfl⟩ <;> simp

/-- All that `Execute` can answer with a next state (R231): the command's own, or the decode error (R90). -/
theorem execute_next {cw : CmdWord} {cd : CmdData} {s t : State} (h : execute cw cd s = .next t) :
    (∃ i, decode cw cd = .ok i ∧ exec i s = .next t) ∨
      (∃ e, decode cw cd = .error e ∧ t = s.raiseErr (decodeErrCode e)) := by
  unfold execute at h
  split at h
  · rename_i i hd
    exact .inl ⟨i, hd, h⟩
  · rename_i e hd
    cases h
    exact .inr ⟨e, hd, rfl⟩

/-- All that one rising edge can do (20_memory.md R53 to R56, 70_reset_and_hazards.md R270): reset, accept, wait, complete
or idle. -/
theorem step_next {s t : State} (h : step s = .next t) :
    (s.pin.rst = true ∧ t = s.sampled.resetEdge) ∨
      (s.pin.rst = false ∧ s.inflight = none ∧ s.pin.cmdValid = true ∧ t = acceptOffer s) ∨
      (s.pin.rst = false ∧ s.inflight = none ∧ s.pin.cmdValid = false ∧ t = s.sampled.idleEdge) ∨
      (s.pin.rst = false ∧ ∃ f n, s.inflight = some f ∧ f.left = n + 1 ∧
        t = s.sampled.waitEdge f n (Sequencer.advance f.cw f.cd s (Config.pace f s.arch s.draws) f.seq)) ∨
      (s.pin.rst = false ∧ ∃ f, s.inflight = some f ∧ f.left = 0 ∧ execute f.cw f.cd s.sampled = .next t) := by
  unfold step risingEdge at h
  split at h
  · rename_i hr
    cases h
    exact .inl ⟨hr, rfl⟩
  · rename_i hr
    have hr' : s.pin.rst = false := by simpa using hr
    right
    split at h
    · rename_i f hf
      right; right
      unfold busyEdge at h
      split at h
      · rename_i hl
        exact .inr ⟨hr', f, hf, hl, h⟩
      · rename_i n hl
        cases h
        exact .inl ⟨hr', f, n, hf, hl, rfl⟩
    · rename_i hf
      split at h
      · rename_i hv
        cases h
        exact .inl ⟨hr', hf, by simp at hv; exact hv.1, rfl⟩
      · rename_i hv
        cases h
        refine .inr (.inl ⟨hr', hf, ?_, rfl⟩)
        simpa [State.cmdReady, State.busy, hf, hr'] using hv

/-- The key schedule makes its keys in order (42_block_cipher.md R160). -/
theorem keySchedule_toList (k : Key) : (keySchedule k).toList = (ksRounds rounds 1 (ksInit k)).made := by
  simp [keySchedule, Vector.toList]

/-- Rows of the reference tables, one after another. -/
theorem ticks_add (i : Instr) (s : State) (m n : Nat) (q : Sequencer) :
    Sequencer.ticks i s (m + n) q = Sequencer.ticks i s n (Sequencer.ticks i s m q) := by
  induction m generalizing q with
  | zero => simp [Sequencer.ticks]
  | succ m ih => rw [Nat.succ_add]; exact ih _

/-- Advancing a latched command's sequencer, twice. -/
theorem advance_add (cw : CmdWord) (cd : CmdData) (s : State) (m n : Nat) (q : Sequencer) :
    Sequencer.advance cw cd s (m + n) q = Sequencer.advance cw cd s n (Sequencer.advance cw cd s m q) := by
  unfold Sequencer.advance
  split
  · exact ticks_add _ s m n q
  · rfl

end Sys2Proof.Machine
end

