-- ==== Sys2Proof/Laws/PerInstr.lean ====
section
/-! SUPPORT. A family of lemmas, one per command: what the encoder puts into the fields of the command word
(30_encoding.md R81, R84). -/

namespace Sys2Proof.Laws

/-- The fields of a command word put together (R81). -/
theorem word_fields (i : BitVec 4) (op : BitVec 8) :
    Machine.opField ((i.setWidth 32 <<< 8) ||| op.setWidth 32) = op ∧
      Machine.idxField ((i.setWidth 32 <<< 8) ||| op.setWidth 32) = i ∧
      Machine.rsvdField ((i.setWidth 32 <<< 8) ||| op.setWidth 32) = 0 := by
  refine ⟨?_, ?_, ?_⟩ <;> ext j hj
  · simp [Machine.opField, hj, show j < 32 by omega]
  · simp [Machine.idxField, show 8 + j < 32 by omega, BitVec.getLsbD_eq_getElem hj]
  · simp only [Machine.rsvdField, BitVec.getElem_extractLsb', BitVec.getLsbD_or, BitVec.getLsbD_shiftLeft,
      BitVec.getLsbD_setWidth, BitVec.getLsbD_of_ge op (12 + j) (by omega),
      BitVec.getLsbD_of_ge i (12 + j - 8) (by omega)]
    simp

end Sys2Proof.Laws

namespace Sys2Proof.Laws.EncodedFields

/-- The encoder's word carries the command's opcode, its index where it is `sbox` and else 0, and RSVD = 0. -/
def Statement (i : Instr) : Prop :=
  Machine.opField (encode i).word = i.opcode ∧ Machine.idxField (encode i).word = i.indexField ∧
    Machine.rsvdField (encode i).word = 0

theorem nop : Statement .nop := word_fields _ _
theorem gfMul (a b : Byte) : Statement (.gfMul a b) := word_fields _ _
theorem gfAdd (a b : Byte) : Statement (.gfAdd a b) := word_fields _ _
theorem sbox (i : BitVec 4) (a : Byte) : Statement (.sbox i a) := word_fields _ _
theorem sub (x : Block) : Statement (.sub x) := word_fields _ _
theorem perm (x : Block) : Statement (.perm x) := word_fields _ _
theorem mix (x : Block) : Statement (.mix x) := word_fields _ _
theorem rt (x : Block) : Statement (.rt x) := word_fields _ _
theorem blkSetkey (k : Key) : Statement (.blkSetkey k) := word_fields _ _
theorem blkEnc (x : Block) : Statement (.blkEnc x) := word_fields _ _
theorem blkDec : Statement .blkDec := word_fields _ _
theorem cfbSetkey (k : Key) (iv : Block) : Statement (.cfbSetkey k iv) := word_fields _ _
theorem cfbEnc (a : Byte) : Statement (.cfbEnc a) := word_fields _ _
theorem cfbDec (a : Byte) : Statement (.cfbDec a) := word_fields _ _

end Sys2Proof.Laws.EncodedFields
end

