-- ==== Sys2Proof/Laws/Program.lean ====
section
/-! SUPPORT. Sequences of commands put one after another (20_memory.md R59). -/

namespace Sys2Proof.Machine

/-- A sequence in two parts runs its first part, and its second part from the state that the first left. -/
theorem runProgram_append (xs ys : List Command) (s : State) :
    runProgram (xs ++ ys) s =
      match runProgram xs s with
      | none => none
      | some (seen, t) => (runProgram ys t).map fun p => (seen ++ p.1, p.2) := by
  induction xs generalizing s with
  | nil => simp [runProgram]
  | cons c cs ih =>
    simp only [List.cons_append, runProgram]
    cases execute c.word c.data s with
    | fault r => rfl
    | refused r => rfl
    | next t =>
      simp only [ih]
      rcases runProgram cs t with _ | ⟨seen, u⟩
      · rfl
      · cases h : runProgram ys u <;> simp [h]

end Sys2Proof.Machine
end

