-- ==== Sys2Proof/Tests/Slice0.lean ====
section
/-! SUPPORT. Tests on fixed values, each expected value from the spec (its encodings, its examples, 95_test_vectors.md),
and for every statement with hypotheses a witness that meets them. -/

namespace Sys2Proof.Tests

open Sys2Proof.Machine Sys2Proof.Spec

/-! ### Helpers -/

/-- RESULT and STATUS of a next state; none for a stop. -/
def seen (o : Host.Outcome State Fault Refusal) : Option (Block × BitVec 16) :=
  match o with
  | .next t => some (t.result, t.status)
  | .fault _ | .refused _ => none

/-- RESULT and STATUS after each of some commands from reset. -/
def seenFrom (is : List Instr) : Option (List (Block × BitVec 16)) :=
  (runProgram (is.map encode) State.reset).map (·.1)

/-- An offer of a command. -/
def offer (cw : CmdWord) (cd : CmdData) : Pins := { rst := false, cmdValid := true, cmdWord := cw, cmdData := cd }

/-- A reset sample, with an offer beside it. -/
def resetPin : Pins := { rst := true, cmdValid := true, cmdWord := 0, cmdData := 0 }

/-- A command in flight, with this many edges before its completion edge. -/
def flying (cw : CmdWord) (left : Nat) : InFlight := { cw := cw, cd := 0, left := left, seq := .idle }

/-- The state after reset with a host script. -/
def scripted (pins : List Pins) : State := { State.reset with pins := pins }

/-- The state after reset with a command in flight and a host script. -/
def inFlight (f : InFlight) (pins : List Pins) : State := { scripted pins with inflight := some f }

/-- A keyed and set-up state on the round keys of the zero key. -/
def ready (kpos : BitVec 4) : State :=
  { State.reset with cipher := .streaming (keySchedule 0) (unpack 0x0123456789ABCDEF), kpos := kpos }

/-- That state meets the invariant, whatever the host drives next. -/
theorem ready_inv (pins : List Pins) : ({ ready 8 with pins := pins } : State).Inv :=
  { keyedSchedule := fun _ => ⟨0, rfl⟩
    readyKeyed := fun _ => rfl
    readyBuffer := fun _ => rfl
    kposRange := show (8#4).toNat ≤ 8 by decide
    errorResult := fun h => absurd rfl h
    doneIdle := fun _ => rfl
    sequencer := fun _ h => by cases h }

/-! ### WellFormed: each check refuses an ill-formed command -/

theorem test_wellFormed_refuses_index_0 : (Instr.sbox 0 0x12).wellFormed = false := by decide
theorem test_wellFormed_refuses_index_9 : (Instr.sbox 9 0x12).wellFormed = false := by decide
theorem test_wellFormed_accepts_index_1_and_8 :
    (Instr.sbox 1 0x12).wellFormed = true ∧ (Instr.sbox 8 0x12).wellFormed = true := by decide

/-! ### Decoding: every row of R84, its word bit by bit, and the encoder on the same row (R91) -/

theorem test_decode_nop :
    decode 0b00000000000000000000000000000000 0 = .ok .nop ∧
      encode .nop = { word := 0b00000000000000000000000000000000, data := 0 } := by decide
theorem test_decode_gfMul :
    decode 0b00000000000000000000000000000001 0x8357 = .ok (.gfMul 0x57 0x83) ∧
      encode (.gfMul 0x57 0x83) = { word := 0b00000000000000000000000000000001, data := 0x8357 } := by decide
theorem test_decode_gfAdd :
    decode 0b00000000000000000000000000000010 0x8357 = .ok (.gfAdd 0x57 0x83) ∧
      encode (.gfAdd 0x57 0x83) = { word := 0b00000000000000000000000000000010, data := 0x8357 } := by decide
theorem test_decode_sbox :
    decode 0b00000000000000000000001100001000 0x80 = .ok (.sbox 3 0x80) ∧
      encode (.sbox 3 0x80) = { word := 0b00000000000000000000001100001000, data := 0x80 } := by decide
theorem test_decode_sub :
    decode 0b00000000000000000000000000001001 0x0123456789ABCDEF = .ok (.sub 0x0123456789ABCDEF) ∧
      encode (.sub 0x0123456789ABCDEF) =
        { word := 0b00000000000000000000000000001001, data := 0x0123456789ABCDEF } := by decide
theorem test_decode_perm :
    decode 0b00000000000000000000000000001010 0x0123456789ABCDEF = .ok (.perm 0x0123456789ABCDEF) ∧
      encode (.perm 0x0123456789ABCDEF) =
        { word := 0b00000000000000000000000000001010, data := 0x0123456789ABCDEF } := by decide
theorem test_decode_mix :
    decode 0b00000000000000000000000000001011 0x0123456789ABCDEF = .ok (.mix 0x0123456789ABCDEF) ∧
      encode (.mix 0x0123456789ABCDEF) =
        { word := 0b00000000000000000000000000001011, data := 0x0123456789ABCDEF } := by decide
theorem test_decode_rt :
    decode 0b00000000000000000000000000001100 0x0123456789ABCDEF = .ok (.rt 0x0123456789ABCDEF) ∧
      encode (.rt 0x0123456789ABCDEF) =
        { word := 0b00000000000000000000000000001100, data := 0x0123456789ABCDEF } := by decide
theorem test_decode_blkSetkey :
    decode 0b00000000000000000000000000010000 0x000102030405060708090A0B0C0D0E0F0000000000000000 =
        .ok (.blkSetkey 0x000102030405060708090A0B0C0D0E0F) ∧
      encode (.blkSetkey 0x000102030405060708090A0B0C0D0E0F) =
        { word := 0b00000000000000000000000000010000,
          data := 0x000102030405060708090A0B0C0D0E0F0000000000000000 } := by decide
theorem test_decode_blkEnc :
    decode 0b00000000000000000000000000010001 0x0123456789ABCDEF = .ok (.blkEnc 0x0123456789ABCDEF) ∧
      encode (.blkEnc 0x0123456789ABCDEF) =
        { word := 0b00000000000000000000000000010001, data := 0x0123456789ABCDEF } := by decide
/-- The data of `blk.dec` is not read, and its encoder writes none (R83, R84). -/
theorem test_decode_blkDec :
    decode 0b00000000000000000000000000010010 0x0123456789ABCDEF = .ok .blkDec ∧
      encode .blkDec = { word := 0b00000000000000000000000000010010, data := 0 } := by decide
theorem test_decode_cfbSetkey :
    decode 0b00000000000000000000000000100000 0x000102030405060708090A0B0C0D0E0FF0F1F2F3F4F5F6F7 =
        .ok (.cfbSetkey 0x000102030405060708090A0B0C0D0E0F 0xF0F1F2F3F4F5F6F7) ∧
      encode (.cfbSetkey 0x000102030405060708090A0B0C0D0E0F 0xF0F1F2F3F4F5F6F7) =
        { word := 0b00000000000000000000000000100000,
          data := 0x000102030405060708090A0B0C0D0E0FF0F1F2F3F4F5F6F7 } := by decide
theorem test_decode_cfbEnc :
    decode 0b00000000000000000000000000100001 0x59 = .ok (.cfbEnc 0x59) ∧
      encode (.cfbEnc 0x59) = { word := 0b00000000000000000000000000100001, data := 0x59 } := by decide
theorem test_decode_cfbDec :
    decode 0b00000000000000000000000000100010 0x59 = .ok (.cfbDec 0x59) ∧
      encode (.cfbDec 0x59) = { word := 0b00000000000000000000000000100010, data := 0x59 } := by decide

/-- Both bits of RSVD at its ends, IDX on another command, and the opcodes next to the map's (R85, R86, R87). -/
theorem test_decode_errors :
    decode 0b10000000000000000000000000000000 0 = .error .rsvdField ∧
      decode 0b00000000000000000001000100001000 0 = .error .rsvdField ∧
      decode 0b00000000000000000000000100000001 0 = .error .rsvdField ∧
      decode 0b00000000000000000000000000000011 0 = .error .illegalOp ∧
      decode 0b11111111111111111111111111111111 0 = .error .illegalOp := by decide

/-- The two names that the host asks about, on the row of `sbox`. -/
theorem test_decodeTableWord : decodeTableWord 32 0x308 = some (.sbox 3 0) := by decide
theorem test_withFetchWord_runs :
    seen (step (State.reset.withFetchWord 32 0x308)) = some (0x63, 0x0800) := by decide

/-- Lines of R91, a comment, a number too wide for its operand, and an illegal encoding by `.cmd`. -/
theorem test_assembler :
    assembleText ['s', 'b', 'o', 'x', ' ', '3', ',', ' ', '0', 'x', '8', '0', ' ', ';', ' ', 'S'] =
        some [{ word := 0x308, data := 0x80 }] ∧
      assembleText ['s', 'b', 'o', 'x', ' ', '1', '6', ',', '0'] = none ∧
      assembleText ['b', 'l', 'k', '.', 'd', 'e', 'c', ' ', '0', 'x', 'F', 'F'] = some [{ word := 0x12, data := 0xFF }] ∧
      assembleText ['.', 'c', 'm', 'd', ' ', '0', 'x', 'F', '1', '3', ',', ' ', '7'] =
        some [{ word := 0xF13, data := 7 }] ∧
      assembleText [';', ' ', 'x'] = some [] := by decide

/-! ### The commands, on the examples of their rules -/

theorem test_nop_clears_result_and_err :
    seen (exec .nop { State.reset with result := 5, err := .noKey }) = some (0, 0x0800) := by decide
theorem test_gfMul_example : seen (exec (.gfMul 0x57 0x83) State.reset) = some (0x31, 0x0800) := by decide
theorem test_gfMul_reduces : seen (exec (.gfMul 0x80 0x02) State.reset) = some (0x1D, 0x0800) := by decide
theorem test_gfAdd_example : seen (exec (.gfAdd 0x57 0x83) State.reset) = some (0xD4, 0x0800) := by decide
theorem test_gfAdd_no_carry : seen (exec (.gfAdd 0xFF 0x01) State.reset) = some (0xFE, 0x0800) := by decide
theorem test_sbox_example : seen (exec (.sbox 3 0x80) State.reset) = some (0x6A, 0x0800) := by decide
theorem test_sbox_bad_index :
    seen (exec (.sbox 0 0) State.reset) = some (0, 0x0830) ∧ seen (exec (.sbox 9 0) State.reset) = some (0, 0x0830) := by
  decide
theorem test_sub_example :
    seen (exec (.sub 0x0123456789ABCDEF) State.reset) = some (0xA25D01F7EE1C4D87, 0x0800) := by decide
theorem test_perm_example :
    seen (exec (.perm 0x0123456789ABCDEF) State.reset) = some (0xAB0167CD2389EF45, 0x0800) := by decide
theorem test_mix_example :
    seen (exec (.mix 0x0123456789ABCDEF) State.reset) = some (0x2164EDECA46968E1, 0x0800) := by decide
theorem test_rt_example :
    seen (exec (.rt 0x0123456789ABCDEF) State.reset) = some (0x9AE7BE2054721284, 0x0800) := by decide +kernel
theorem test_rt_ones :
    seen (exec (.rt 0xFFFFFFFFFFFFFFFF) State.reset) = some (0xDF443CEFAFEF07EF, 0x0800) := by decide +kernel
/-- RK[1] and RK[27] of the zero key (R167). -/
theorem test_blkSetkey_example :
    (keySchedule 0)[0] = 0xA5C6A5C6A5C6A5C6 ∧ (keySchedule 0)[26] = 0xE518024751556ECD := by decide +kernel
theorem test_blkSetkey_flags : seen (exec (.blkSetkey 0) (ready 5)) = some (0, 0x0502) := by decide
theorem test_blkEnc_no_key : seen (exec (.blkEnc 0) State.reset) = some (0, 0x0840) := by decide
theorem test_blkEnc_zero : seen (exec (.blkEnc 0) (ready 8)) = some (0x59654980FB7DE46B, 0x0806) := by decide +kernel
theorem test_blkDec_fails : seen (exec .blkDec (ready 8)) = some (0, 0x0866) := by decide
theorem test_cfbSetkey_flags : seen (exec (.cfbSetkey 0 0) State.reset) = some (0, 0x0806) := by decide
/-- The first byte of the zero key and zero IV is the first byte of the block test (R203). -/
theorem test_cfbEnc_regenerates :
    seenFrom [.cfbSetkey 0 0, .cfbEnc 0x00] = some [(0, 0x0806), (0x59, 0x0106)] := by decide +kernel
theorem test_cfbEnc_not_ready : seen (exec (.cfbEnc 0) State.reset) = some (0, 0x0850) := by decide
theorem test_cfbDec_regenerates :
    seenFrom [.cfbSetkey 0 0, .cfbDec 0x59] = some [(0, 0x0806), (0x00, 0x0106)] := by decide +kernel
/-- Decryption feeds back its input (R204). -/
theorem test_cfbDec_feeds_back_the_input :
    (match exec (.cfbDec 0x59) (ready 0) with
      | .next t => t.ks.map fun ks => (ks[0], ks[1])
      | .fault _ | .refused _ => none) = some (0x59, 0x23) := by decide

/-! ### The edges -/

/-- Reset while a command is in flight and another is offered (R270, R271). -/
theorem test_reset_aborts :
    (match step (inFlight (flying 0x01 0) [resetPin]) with
      | .next t => some (t.outputs, t.inflight.isNone)
      | .fault _ | .refused _ => none) =
      some ({ cmdReady := true, done := false, result := 0, status := 0x0800 }, true) := by decide
/-- An offer at an edge with BUSY = 1 is not taken; the command in flight completes (R53, R55). -/
theorem test_offer_while_busy_is_ignored :
    (match step (inFlight (flying 0x12 0) [offer 0x02 0x0101]) with
      | .next t => some (t.outputs, t.inflight.isNone)
      | .fault _ | .refused _ => none) =
      some ({ cmdReady := true, done := true, result := 0, status := 0x0860 }, true) := by decide

/-! ### Witnesses: the hypotheses of each statement are met -/

theorem witness_DecodedCommandHasEncodersWord :
    decode 0x00000F08 0x1FF = .ok (.sbox 15 0xFF) ∧ decode 0x12 1 = .ok .blkDec := by decide

theorem witness_UnreadDataBitsAreIgnored :
    (0x1FF &&& readMask (opField 0x08) = 0x0FF &&& readMask (opField 0x08)) ∧
      (5 &&& readMask (opField 0x10) = 0 &&& readMask (opField 0x10)) ∧ (0x1FF : CmdData) ≠ 0x0FF := by decide

/-- Both ends of each of the four ranges of R85. -/
theorem witness_IllegalOpcodesRaiseAndChangeNothing :
    ∀ op ∈ [0x03#8, 0x07#8, 0x0D#8, 0x0F#8, 0x13#8, 0x1F#8, 0x23#8, 0xFF#8],
      (0x03 ≤ op.toNat ∧ op.toNat ≤ 0x07) ∨ (0x0D ≤ op.toNat ∧ op.toNat ≤ 0x0F) ∨
        (0x13 ≤ op.toNat ∧ op.toNat ≤ 0x1F) ∨ 0x23 ≤ op.toNat := by decide

theorem witness_NonzeroReservedFieldRaises :
    (0x00 : BitVec 8) ∈ opcodes ∧ (0x22 : BitVec 8) ∈ opcodes ∧ (1 : BitVec 20) ≠ 0 ∧ (0x80000 : BitVec 20) ≠ 0 := by
  decide

/-- For `sbox`, both ends of both illegal ranges. -/
theorem witness_IndexFieldIsChecked :
    ((0x22 : BitVec 8) ∈ opcodes ∧ (0x22 : BitVec 8) ≠ 0x08 ∧ (1 : BitVec 4) ≠ 0 ∧ (15 : BitVec 4) ≠ 0) ∧
      ∀ idx ∈ [0#4, 9#4, 15#4], idx = 0 ∨ 9 ≤ idx.toNat := by decide

theorem witness_ReportedErrorIsTheFirstThatApplies :
    (∃ t, execute 0x00000F13 0 State.reset = .next t) ∧ ∃ t, execute 0x21 0 State.reset = .next t :=
  ⟨⟨_, rfl⟩, ⟨_, rfl⟩⟩

theorem witness_StepRunsTheDecodedCommand :
    (inFlight (flying 0x08 0) []).pin.rst = false ∧ (inFlight (flying 0x08 0) []).inflight = some (flying 0x08 0) ∧
      (flying 0x08 0).left = 0 ∧ decode (flying 0x08 0).cw (flying 0x08 0).cd = .ok (.sbox 0 0) := by decide

theorem witness_ResetEdgeWinsOverEverything : (inFlight (flying 0x10 3) [resetPin]).pin.rst = true := by decide

theorem witness_OutputsAroundReset :
    (scripted [resetPin, offer 0x10 1]).pin.rst = true ∧
      ∃ t, step (scripted [resetPin, offer 0x10 1]) = .next t ∧ t.pin.rst = false ∧ t.pin.cmdValid = true :=
  ⟨rfl, _, rfl, rfl, rfl⟩

/-- One state for each clause: an offer taken, no offer, an edge before completion, the completion edge. -/
theorem witness_OffersAreAcceptedOnlyWhenReady :
    ((scripted [offer 0x10 1]).cmdReady = true ∧ (scripted [offer 0x10 1]).pin.cmdValid = true) ∧
      ((scripted []).cmdReady = true ∧ (scripted []).pin.cmdValid = false) ∧
      ((inFlight (flying 0x10 1) []).pin.rst = false ∧ (inFlight (flying 0x10 1) []).inflight = some (flying 0x10 1) ∧
        (flying 0x10 1).left = 0 + 1) ∧
      ((inFlight (flying 0x10 0) []).inflight = some (flying 0x10 0) ∧ (flying 0x10 0).left = 0) := by decide

/-- The script holds one sample; the host is idle after it, so that no edge up to the completion resets. -/
theorem witness_EveryCommandIsOneAtomicTransition :
    (scripted [offer 0x10 1]).inflight = none ∧ (scripted [offer 0x10 1]).pin.cmdValid = true ∧
      (∀ p ∈ (scripted [offer 0x10 1]).pins.take
        (latency (scripted [offer 0x10 1]).pin.cmdWord (scripted [offer 0x10 1]) + 1), p.rst = false) ∧
      1 ≤ latency (scripted [offer 0x10 1]).pin.cmdWord (scripted [offer 0x10 1]) := by
  refine ⟨rfl, rfl, fun p hp => ?_, Nat.le_add_left 1 _⟩
  obtain rfl : p = offer 0x10 1 := by simpa [scripted] using hp
  rfl

theorem witness_OutputsHoldWhileBusy :
    ((scripted [offer 0x10 1]).inflight = none ∧ (scripted [offer 0x10 1]).pin.rst = false ∧
        (scripted [offer 0x10 1]).pin.cmdValid = true ∧ ∃ t, step (scripted [offer 0x10 1]) = .next t) ∧
      ((inFlight (flying 0x10 1) []).inflight = some (flying 0x10 1) ∧ (flying 0x10 1).left = 0 + 1 ∧
        (inFlight (flying 0x10 1) []).pin.rst = false ∧ ∃ t, step (inFlight (flying 0x10 1) []) = .next t) :=
  ⟨⟨rfl, rfl, rfl, _, rfl⟩, rfl, rfl, rfl, _, rfl⟩

theorem witness_DonePulsesExactlyAfterCompletion :
    (∃ t, step (inFlight (flying 0x10 0) []) = .next t) ∧ ∃ t, step (scripted []) = .next t :=
  ⟨⟨_, rfl⟩, ⟨_, rfl⟩⟩

/-- A state of the invariant in which a key is installed, a stream is set up and a command is in flight. -/
theorem witness_NoStepStopsTheMachine : ({ ready 8 with inflight := some (flying 0x00 1) } : State).Inv :=
  { keyedSchedule := fun _ => ⟨0, rfl⟩
    readyKeyed := fun _ => rfl
    readyBuffer := fun _ => rfl
    kposRange := by decide
    errorResult := fun h => absurd rfl h
    doneIdle := fun h => absurd h (by decide)
    sequencer := fun f h => ⟨0, by cases h; decide⟩ }

theorem witness_EveryStepKeepsTheInvariant :
    ({ ready 8 with inflight := some (flying 0x00 1) } : State).Inv ∧
      ∃ t, step { ready 8 with inflight := some (flying 0x00 1) } = .next t :=
  ⟨witness_NoStepStopsTheMachine, _, rfl⟩

/-- A command of each group: one that installs no key, one that writes no buffer. -/
theorem witness_CommandsWriteOnlyTheirOwnState :
    (∃ t, exec (.sbox 1 0) State.reset = .next t ∧ isSetkey (.sbox 1 0) = false) ∧
      ∃ t, exec (.blkSetkey 0) State.reset = .next t ∧ isByteCommand (.blkSetkey 0) = false ∧
        isCfbSetkey (.blkSetkey 0) = false :=
  ⟨⟨_, rfl, rfl⟩, ⟨_, rfl, rfl, rfl⟩⟩

theorem witness_ErrorsChangeNothingElse : ∃ t, execute 0x12 0 (ready 8) = .next t ∧ t.err ≠ .none :=
  ⟨_, rfl, by decide⟩

/-- What a first command of the next witness, `gf.add 0x01, 0x01`, leaves. -/
theorem afterCommand_gfAdd (s : State) :
    afterCommand { word := 0x02, data := 0x0101 } s = ({ s with draws := s.draws + 1 } : State).complete 0 := by
  have h : decode 0x02 0x0101 = .ok (.gfAdd 1 1) := by decide
  simp only [afterCommand, execute, h]
  rfl

/-- A pause, then two commands: the host offers a third thing all through the LAT edges of the first, and the second is in
error. -/
theorem witness_ProgramsCompose :
    ∃ cs s edges, State.Inv s ∧ s.inflight = none ∧ Offered cs s s.pins edges ∧ cs.length = 2 := by
  let first : Command := { word := 0x02, data := 0x0101 }
  let samples := Pins.idle :: offer 0x02 0x0101 :: (List.replicate (latency 0x02 (ready 8)) (offer 0x20 7) ++
    offer 0x03 0 :: (List.replicate (latency 0x03 (afterCommand first (ready 8))) Pins.idle ++ []))
  have second : latency 0x03 (afterCommand first (ready 8)) =
      latency 0x03 (afterCommand first { ready 8 with pins := samples }) := by
    rw [afterCommand_gfAdd, afterCommand_gfAdd]
    rfl
  exact ⟨[first, { word := 0x03, data := 0 }], { ready 8 with pins := samples }, _, ready_inv samples, rfl,
    .pause rfl rfl (.command List.length_replicate (fun p hp => by cases (List.mem_replicate.1 hp).2; rfl)
      (.command (List.length_replicate.trans second) (fun p hp => by cases (List.mem_replicate.1 hp).2; rfl)
        (.finished _ _))), rfl⟩

theorem witness_KeyedIsClearedOnlyByReset :
    ((ready 8).keyed = true ∧ (ready 8).pin.rst = false ∧ ∃ t, step (ready 8) = .next t) ∧
      (isSetkey (.blkSetkey 1) = true ∧ ∃ t, exec (.blkSetkey 1) State.reset = .next t) ∧
      (isSetkey (.cfbSetkey 1 2) = true ∧ ∃ t, exec (.cfbSetkey 1 2) State.reset = .next t) :=
  ⟨⟨rfl, rfl, _, rfl⟩, ⟨rfl, _, rfl⟩, ⟨rfl, _, rfl⟩⟩

theorem witness_HiddenRegistersInfluenceNothing :
    ((inFlight (flying 0x10 0) []).inflight = some (flying 0x10 0) ∧ (flying 0x10 0).left = 0) ∧
      ((inFlight (flying 0x10 1) []).inflight = some (flying 0x10 1) ∧ (flying 0x10 1).left ≠ 0 ∧
        ∃ t, step (inFlight (flying 0x10 1) []) = .next t) :=
  ⟨⟨rfl, rfl⟩, rfl, by decide, _, rfl⟩

/-- KPOS at both ends of 0 to 8 and of 9 to 15, and a key without a stream. -/
theorem witness_NoCommandReadsAnUnwrittenTable :
    ({ State.reset with cipher := .keyed (keySchedule 0) none } : State).keyed = true ∧ (ready 8).cfbRdy = true ∧
      ((ready 0).kpos.toNat ≤ 8 ∧ (ready 8).kpos.toNat ≤ 8) ∧
      ((ready 9).cfbRdy = true ∧ 9 ≤ (ready 9).kpos.toNat ∧ 9 ≤ (ready 15).kpos.toNat) :=
  ⟨rfl, rfl, ⟨by decide, by decide⟩, rfl, by decide, by decide⟩

/-- Both ends of the legal indices. -/
theorem witness_SboxLooksUpItsByte :
    (1 ≤ (1 : BitVec 4).toNat ∧ (1 : BitVec 4).toNat ≤ 8) ∧ 1 ≤ (8 : BitVec 4).toNat ∧ (8 : BitVec 4).toNat ≤ 8 := by
  decide

theorem witness_RtIsSubThenPermThenMix :
    ∃ t u v, exec (.sub 7) State.reset = .next t ∧ exec (.perm t.result) t = .next u ∧
      exec (.mix u.result) u = .next v :=
  ⟨_, _, _, rfl, rfl, rfl⟩

theorem witness_BlkEncEncryptsOneBlock :
    State.reset.keyed = false ∧ ((ready 8).keyed = true ∧ (ready 8).rk = some (keySchedule 0)) ∧
      ∃ t, exec (.blkSetkey 0) State.reset = .next t := ⟨rfl, ⟨rfl, rfl⟩, _, rfl⟩

/-- A witness for each clause: not set up; KPOS 0 and 7; KPOS 8. -/
theorem witness_CfbEncEncryptsOneByte :
    State.reset.cfbRdy = false ∧
      ((ready 0).cfbRdy = true ∧ (ready 0).rk = some (keySchedule 0) ∧ (ready 0).ks = some (unpack 0x0123456789ABCDEF) ∧
        (ready 0).kpos.toNat = (0 : Fin 8).val ∧ (ready 7).kpos.toNat = (7 : Fin 8).val) ∧
      ((ready 8).cfbRdy = true ∧ (ready 8).ks = some (unpack 0x0123456789ABCDEF) ∧ (ready 8).kpos = 8 ∧
        (ready 8).rk = some (keySchedule 0)) ∧
      ∃ t, exec (.cfbSetkey 0 0) State.reset = .next t :=
  ⟨rfl, ⟨rfl, rfl, rfl, rfl, rfl⟩, ⟨rfl, rfl, rfl, rfl⟩, _, rfl⟩

/-- The hypotheses of `CfbDecDecryptsOneByte` are those of `CfbEncEncryptsOneByte`. -/
theorem witness_CfbDecDecryptsOneByte :
    State.reset.cfbRdy = false ∧
      ((ready 0).cfbRdy = true ∧ (ready 0).rk = some (keySchedule 0) ∧ (ready 0).ks = some (unpack 0x0123456789ABCDEF) ∧
        (ready 0).kpos.toNat = (0 : Fin 8).val ∧ (ready 7).kpos.toNat = (7 : Fin 8).val) ∧
      ((ready 8).cfbRdy = true ∧ (ready 8).ks = some (unpack 0x0123456789ABCDEF) ∧ (ready 8).kpos = 8 ∧
        (ready 8).rk = some (keySchedule 0)) ∧
      ∃ t, exec (.cfbSetkey 0 0) State.reset = .next t :=
  ⟨rfl, ⟨rfl, rfl, rfl, rfl, rfl⟩, ⟨rfl, rfl, rfl, rfl⟩, _, rfl⟩

theorem witness_GmulIsAFieldProduct : (0xFF : Byte) ≠ 0 ∧ gmul 0 0xFF = 0 ∧ gmul 0xFF 0 = 0 := by decide

theorem witness_SboxesAreDistinctBijections :
    1 ≤ (1 : BitVec 4).toNat ∧ (1 : BitVec 4).toNat ≤ 8 ∧ 1 ≤ (8 : BitVec 4).toNat ∧ (8 : BitVec 4).toNat ≤ 8 ∧
      (1 : BitVec 4) ≠ 8 := by decide

theorem witness_KeyScheduleFollowsItsRounds : (1 ≤ 1 ∧ 1 ≤ 27) ∧ (1 ≤ 27 ∧ 27 ≤ 27) := by decide

theorem witness_EncryptFollowsItsRounds : 0 < 27 ∧ 26 < 27 := by decide

theorem witness_KeyScheduleMachineReachesTheCommand :
    (Instr.blkSetkey 1 = .blkSetkey 1 ∨ ∃ iv, Instr.blkSetkey 1 = .cfbSetkey 1 iv) ∧
      (Instr.cfbSetkey 1 2 = .blkSetkey 1 ∨ ∃ iv, Instr.cfbSetkey 1 2 = .cfbSetkey 1 iv) :=
  ⟨.inl rfl, .inr ⟨2, rfl⟩⟩

theorem witness_BlockMachineReachesTheCommand :
    (ready 8).keyed = true ∧ (ready 8).rk = some (keySchedule 0) := ⟨rfl, rfl⟩

/-- KPOS at both ends, and both byte commands. -/
theorem witness_ByteMachineReachesTheCommand :
    isByteCommand (.cfbEnc 1) = true ∧ isByteCommand (.cfbDec 1) = true ∧ (ready 8).cfbRdy = true ∧
      (ready 8).ks = some (unpack 0x0123456789ABCDEF) ∧ (ready 8).rk = some (keySchedule 0) ∧
      (ready 8).kpos.toNat ≤ 8 ∧ (ready 0).kpos.toNat ≤ 8 ∧ (ready 8).kpos = 8 :=
  ⟨rfl, rfl, rfl, rfl, rfl, by decide, by decide, rfl⟩

theorem witness_EveryEighthByteRegenerates :
    ∀ i ∈ [Instr.cfbEnc 1, .cfbDec 2, .cfbEnc 3], isByteCommand i = true := by decide

theorem witness_BlockCommandsAndStreams :
    (isByteCommand (.cfbEnc 1) = true ∧ ∃ t, exec (.blkEnc 7) (ready 3) = .next t) ∧
      ((∀ j ∈ [Instr.nop, .blkSetkey 3], isCfbSetkey j = false) ∧ isByteCommand (.cfbDec 1) = true ∧
        ∃ results t, runCommands (.blkSetkey 2 :: [Instr.nop, .blkSetkey 3]) (ready 3) = some (results, t)) :=
  ⟨⟨rfl, _, rfl⟩, by decide, rfl, _, _, rfl⟩

end Sys2Proof.Tests
end

section
/-! The rotation of the key schedule's halves as one rotation of the 128-bit word (00_scope.md R10, R161). -/

namespace Sys2Proof.Machine

/-- A word that is shifted right takes the bits that leave its left neighbour into its upper end. -/
theorem getElem_ushiftRight_or_shiftLeft {w n i : Nat} (x y : BitVec w) (hn : n ≤ w) (hi : i < w) :
    (x >>> n ||| y <<< (w - n))[i] = if h : n + i < w then x[n + i] else y[n + i - w] := by
  rw [BitVec.getElem_or, BitVec.getElem_ushiftRight, BitVec.getElem_shiftLeft]
  by_cases h : n + i < w
  · have stays : i < w - n := by omega
    simp [h, stays]
  · have crosses : ¬ i < w - n := by omega
    have source : i - (w - n) = n + i - w := by omega
    simp [h, crosses, source, BitVec.getLsbD_of_ge x (n + i) (by omega)]

/-- Rotating two words as one: each takes its lower bits from itself and its upper bits from the other. A bit of the result
stands in the lower half, or in the upper half short of the wrap, or it wraps around. -/
theorem append_rotateRight {w n : Nat} (u l : BitVec w) (hn : n < w) :
    (u ++ l).rotateRight n = (u >>> n ||| l <<< (w - n)) ++ (l >>> n ||| u <<< (w - n)) := by
  ext i hi
  have amount : n % (w + w) = n := Nat.mod_eq_of_lt (by omega)
  simp only [BitVec.getElem_rotateRight, amount, BitVec.getElem_append,
    getElem_ushiftRight_or_shiftLeft _ _ hn.le]
  by_cases lower : i < w
  · have noWrap : i < w + w - n := by omega
    simp only [lower, noWrap, dite_true]
  · by_cases fromUpper : n + (i - w) < w
    · have noWrap : i < w + w - n := by omega
      have notFromLower : ¬ n + i < w := by omega
      have source : n + i - w = n + (i - w) := by omega
      simp only [lower, fromUpper, noWrap, notFromLower, source, dite_true, dite_false]
    · have wraps : ¬ i < w + w - n := by omega
      have source : i - (w + w - n) = n + (i - w) - w := by omega
      have intoLower : n + (i - w) - w < w := by omega
      simp only [lower, fromUpper, wraps, source, intoLower, dite_true, dite_false]

theorem rotr128_eq_shifts (u l : Block) :
    rotr128 u l = ((u >>> 29) ||| (l <<< 35), (l >>> 29) ||| (u <<< 35)) := rfl

theorem rotr128_append (u l : Block) :
    ((rotr128 u l).1 ++ (rotr128 u l).2 : BitVec 128) = (u ++ l : BitVec 128).rotateRight 29 := by
  rw [rotr128_eq_shifts]
  exact (append_rotateRight u l (by decide : 29 < 64)).symm

/-- Settles O50: the 64-bit shifts are the model's definition, and two words rotate as one at every width. -/
theorem halvesRotateAsOneWord : Obligations.HalvesRotateAsOneWord :=
  ⟨rotr128_eq_shifts, rotr128_append⟩

end Sys2Proof.Machine
end

section
/-! What the flags say of the tables, what a command and an edge can do, and what each of them and the sequencer reads. -/

namespace Sys2Proof.Machine

open Sys2Proof.Spec

/-! ### The flags and the tables they gate -/

/-- KEYED says that RK is written (R23, R37). -/
theorem State.keyed_eq_rk_isSome (s : State) : s.keyed = s.rk.isSome := by
  cases hc : s.cipher with
  | unkeyed => rw [State.keyed_of_unkeyed hc, State.rk_of_unkeyed hc]; rfl
  | keyed rk b => rw [State.keyed_of_keyed hc, State.rk_of_keyed hc]; rfl
  | streaming rk ks => rw [State.keyed_of_streaming hc, State.rk_of_streaming hc]; rfl

/-- CFB_RDY = 1 is the form of the cipher state that holds both tables (R26). -/
theorem State.cipher_of_cfbRdy {s : State} (h : s.cfbRdy = true) : ∃ rk ks, s.cipher = .streaming rk ks := by
  cases hc : s.cipher with
  | unkeyed => simp [State.cfbRdy_of_unkeyed hc] at h
  | keyed rk b => simp [State.cfbRdy_of_keyed hc] at h
  | streaming rk ks => exact ⟨rk, ks, rfl⟩

/-- CFB_RDY implies KEYED (R27). -/
theorem State.keyed_of_cfbRdy {s : State} (h : s.cfbRdy = true) : s.keyed = true := by
  obtain ⟨rk, ks, hc⟩ := State.cipher_of_cfbRdy h
  exact State.keyed_of_streaming hc

/-- CFB_RDY implies that KS is written (R37). -/
theorem State.ks_isSome_of_cfbRdy {s : State} (h : s.cfbRdy = true) : s.ks.isSome = true := by
  obtain ⟨rk, ks, hc⟩ := State.cipher_of_cfbRdy h
  rw [State.ks_of_streaming hc]; rfl

/-! ### What a command does to the state -/

/-- The byte step advances an index below 8, so that KPOS stays in 0..8 (R25). -/
theorem byteStep_kpos_le {d : Direction} {a out : Byte} {ks ks' : Vector Byte 8} {k k' : BitVec 4}
    (h : byteStep d a ks k = some (out, ks', k')) : k'.toNat ≤ 8 := by
  have index : k.toNat < 8 := by
    by_contra outside
    simp [byteStep, outside] at h
  rw [byteStep_index index] at h
  obtain ⟨-, -, rfl⟩ : _ ∧ _ ∧ k + 1 = k' := by simpa using h
  bv_omega

/-- The ways a command can leave the state (10_state.md R38): with a result, with an error, with a key schedule installed,
with a stream begun, or with a stream one byte further. -/
inductive CommandEffect (s : State) : Instr → State → Prop
  /-- Only RESULT and the completion. -/
  | result {i : Instr} (v : Block) : isSetkey i = false → CommandEffect s i (s.complete v)
  /-- Only the error and the completion (60_exceptions.md R241). -/
  | error {i : Instr} (c : ErrCode) : isSetkey i = false → CommandEffect s i (s.raiseErr c)
  /-- `blk.setkey` (42_block_cipher.md R167). -/
  | keys (k : Key) : CommandEffect s (.blkSetkey k) ((s.installKeys (keySchedule k)).complete 0)
  /-- `cfb.setkey` (43_cfb.md R201). -/
  | stream (k : Key) (iv : Block) :
      CommandEffect s (.cfbSetkey k iv) ((s.beginStream (keySchedule k) (unpack iv)).complete 0)
  /-- A byte command that is set up (43_cfb.md R203, R204). -/
  | byte {i : Instr} {rk : Vector Block 27} {ks : Vector Byte 8} (ks' : Vector Byte 8) (k : BitVec 4) (v : Block) :
      isByteCommand i = true → s.cipher = .streaming rk ks → k.toNat ≤ 8 →
      CommandEffect s i ((s.writeStream rk ks' k).complete v)

/-- A byte command, in either direction, has one of its two effects. -/
theorem cfbByte_effect {i : Instr} {d : Direction} {a : Byte} {s t : State} (hi : isByteCommand i = true)
    (hk : isSetkey i = false) (h : cfbByte d a s = .next t) : CommandEffect s i t := by
  rcases cfbByte_next h with ⟨-, rfl⟩ | ⟨rk, ks, out, ks', k', hc, hs, rfl⟩
  · exact .error _ hk
  · exact .byte ks' k' _ hi hc (byteStep_kpos_le hs)

/-- Every command that goes on has one of these effects. -/
theorem exec_effect {i : Instr} {s t : State} (h : exec i s = .next t) : CommandEffect s i t := by
  cases i with
  | nop | gfMul | gfAdd | sub | perm | mix | rt => cases h; exact .result _ rfl
  | sbox n a =>
    simp only [exec, execSbox] at h
    split at h <;> cases h
    · exact .error _ rfl
    · exact .result _ rfl
  | blkSetkey k => cases h; exact .keys k
  | blkEnc x =>
    rcases execBlkEnc_next x s with ⟨-, he⟩ | ⟨rk, -, -, he⟩ <;> rw [exec, he] at h <;> cases h
    · exact .error _ rfl
    · exact .result _ rfl
  | blkDec => cases h; exact .error _ rfl
  | cfbSetkey k iv => cases h; exact .stream k iv
  | cfbEnc a | cfbDec a => exact cfbByte_effect rfl rfl h

namespace CommandEffect

variable {s t : State} {i : Instr}

/-- A set-up command leaves KEYED = 1 (R23). -/
theorem keyed_of_isSetkey (h : CommandEffect s i t) (hi : isSetkey i = true) : t.keyed = true := by
  cases h with
  | result v hk | error c hk => simp [hk] at hi
  | keys k | stream k iv => rfl
  | byte ks' k v hb hc hk => rfl

/-- No command clears KEYED (R23). -/
theorem keeps_keyed (h : CommandEffect s i t) (hs : s.keyed = true) : t.keyed = true := by
  cases h with
  | result v hk | error c hk => exact hs
  | keys k | stream k iv => rfl
  | byte ks' k v hb hc hk => rfl

/-- Only the set-up commands write RK, KEYED and CFB_RDY (R38). -/
theorem keeps_keys (h : CommandEffect s i t) (hi : isSetkey i = false) :
    t.rk = s.rk ∧ t.keyed = s.keyed ∧ t.cfbRdy = s.cfbRdy := by
  cases h with
  | result v hk | error c hk => exact ⟨rfl, rfl, rfl⟩
  | keys k | stream k iv => cases hi
  | byte ks' k v hb hc hk =>
    exact ⟨(State.rk_of_streaming hc).symm, (State.keyed_of_streaming hc).symm, (State.cfbRdy_of_streaming hc).symm⟩

/-- Only the byte commands and `cfb.setkey` write KS and KPOS (R38). -/
theorem keeps_buffer (h : CommandEffect s i t) (hb : isByteCommand i = false) (hs : isCfbSetkey i = false) :
    t.ks = s.ks ∧ t.kpos = s.kpos := by
  cases h with
  | result v hk | error c hk | keys k => exact ⟨rfl, rfl⟩
  | stream k iv => cases hs
  | byte ks' k v hi hc hk => simp [hi] at hb

end CommandEffect

/-! ### What a command does not read -/

/-- Every command overwrites ERR, RESULT, `done` and the command in flight without reading them (R31, R35): each arm ends in
`State.complete` or `State.raiseErr`, which write all four, or in a fault. -/
theorem exec_overwrites (i : Instr) (s : State) (e : ErrCode) (v : Block) (d : Bool) (f : Option InFlight) :
    exec i { s with err := e, result := v, done := d, inflight := f } = exec i s := by
  cases i <;> rfl

theorem execute_overwrites (cw : CmdWord) (cd : CmdData) (s : State) (e : ErrCode) (v : Block) (d : Bool)
    (f : Option InFlight) :
    execute cw cd { s with err := e, result := v, done := d, inflight := f } = execute cw cd s := by
  unfold execute
  cases decode cw cd with
  | ok i => exact exec_overwrites i s e v d f
  | error e' => rfl

/-! ### The edges -/

section Edges

variable {s : State} {f : InFlight}

theorem step_of_reset (hr : s.pin.rst = true) : step s = .next s.sampled.resetEdge := by
  simp [step, risingEdge, hr]

theorem step_of_completion (hr : s.pin.rst = false) (hf : s.inflight = some f) (hl : f.left = 0) :
    step s = execute f.cw f.cd s.sampled := by
  simp [step, risingEdge, busyEdge, hr, hf, hl]

theorem step_of_wait {n : Nat} (hr : s.pin.rst = false) (hf : s.inflight = some f) (hl : f.left = n + 1) :
    step s =
      .next (s.sampled.waitEdge f n (Sequencer.advance f.cw f.cd s (Config.pace f s.arch s.draws) f.seq)) := by
  simp [step, risingEdge, busyEdge, hr, hf, hl]

end Edges

/-! ### The sequencer reads only the cipher state and KPOS -/

section SequencerFrame

variable {s t : State}

theorem tick_congr (hc : t.cipher = s.cipher) (i : Instr) (q : Sequencer) : q.tick i t = q.tick i s := by
  cases q with
  | encRound bs r => simp only [Sequencer.tick, State.roundKey, State.rk, hc]
  | idle | complete p | ksRound w r | refill bs | byte ks k => rfl

theorem ticks_congr (hc : t.cipher = s.cipher) (i : Instr) (n : Nat) (q : Sequencer) :
    Sequencer.ticks i t n q = Sequencer.ticks i s n q := by
  induction n generalizing q with
  | zero => rfl
  | succ n ih => rw [Sequencer.ticks, Sequencer.ticks, tick_congr hc, ih]

theorem advance_congr (hc : t.cipher = s.cipher) (cw : CmdWord) (cd : CmdData) (n : Nat) (q : Sequencer) :
    Sequencer.advance cw cd t n q = Sequencer.advance cw cd s n q := by
  unfold Sequencer.advance
  cases decode cw cd with
  | ok i => exact ticks_congr hc i n q
  | error e => rfl

theorem start_congr (hc : t.cipher = s.cipher) (hk : t.kpos = s.kpos) (i : Instr) :
    Sequencer.start i t = Sequencer.start i s := by
  cases i with
  | blkEnc x => simp only [Sequencer.start, State.keyed_eq_rk_isSome, State.rk, hc]
  | cfbEnc a | cfbDec a => simp only [Sequencer.start, hc, hk]
  | nop | gfMul | gfAdd | sbox | sub | perm | mix | rt | blkSetkey | blkDec | cfbSetkey => rfl

theorem accept_congr (hc : t.cipher = s.cipher) (hk : t.kpos = s.kpos) (cw : CmdWord) (cd : CmdData) :
    Sequencer.accept cw cd t = Sequencer.accept cw cd s := by
  unfold Sequencer.accept
  cases decode cw cd with
  | ok i => exact start_congr hc hk i
  | error e => rfl

/-- Advancing no row leaves the sequencer where it is. -/
theorem advance_zero (cw : CmdWord) (cd : CmdData) (s : State) (q : Sequencer) :
    Sequencer.advance cw cd s 0 q = q := by
  unfold Sequencer.advance
  cases decode cw cd <;> rfl

/-- Being on track depends on the cipher state and KPOS alone. -/
theorem State.onTrack_congr {f : InFlight} (h : s.onTrack f) (hc : t.cipher = s.cipher) (hk : t.kpos = s.kpos) :
    t.onTrack f := by
  obtain ⟨n, hn⟩ := h
  exact ⟨n, by rw [advance_congr hc, accept_congr hc hk, hn]⟩

/-- A command that is just accepted is at the start of its track. -/
theorem State.onTrack_accept (s : State) (cw : CmdWord) (cd : CmdData) (left : Nat) :
    s.onTrack { cw := cw, cd := cd, left := left, seq := Sequencer.accept cw cd s } :=
  ⟨0, (advance_zero _ _ _ _).symm⟩

/-- More rows of the reference tables stay on the track. -/
theorem State.onTrack_advance {f : InFlight} (h : s.onTrack f) (left n : Nat) :
    s.onTrack { f with left := left, seq := Sequencer.advance f.cw f.cd s n f.seq } := by
  obtain ⟨m, hm⟩ := h
  exact ⟨m + n, by rw [advance_add, ← hm]⟩

end SequencerFrame

end Sys2Proof.Machine
end

section
/-! The invariant of the core (10_state.md): it holds after reset, and every command and every edge keeps it. -/

namespace Sys2Proof.Machine

variable {s t : State}

/-- The clauses of the invariant that the form of the state does not give by itself. -/
theorem State.inv_of (keyedSchedule : s.keyed = true → ∃ k, s.rk = some (keySchedule k)) (kposRange : s.kpos.toNat ≤ 8)
    (errorResult : s.err ≠ .none → s.result = 0) (doneIdle : s.done = true → s.inflight = none)
    (sequencer : ∀ f, s.inflight = some f → s.onTrack f) : s.Inv :=
  { keyedSchedule, readyKeyed := State.keyed_of_cfbRdy, readyBuffer := State.ks_isSome_of_cfbRdy, kposRange,
    errorResult, doneIdle, sequencer }

/-- When nothing is in flight, the invariant is about the architectural registers alone. -/
theorem State.inv_of_idle (keyedSchedule : s.keyed = true → ∃ k, s.rk = some (keySchedule k))
    (kposRange : s.kpos.toNat ≤ 8) (errorResult : s.err ≠ .none → s.result = 0) (idle : s.inflight = none) : s.Inv :=
  State.inv_of keyedSchedule kposRange errorResult (fun _ => idle) (fun f hf => by simp [idle] at hf)

theorem State.afterReset_inv (pins : List Pins) (draws : Nat) : (State.afterReset pins draws).Inv :=
  State.inv_of_idle (fun h => by cases h) (by decide : (8#4).toNat ≤ 8) (fun _ => rfl) rfl

/-- An edge that leaves the architectural registers keeps the invariant when it keeps the two clauses about the command in
flight. -/
theorem State.Inv.of_arch (h : s.Inv) (ha : t.arch = s.arch) (doneIdle : t.done = true → t.inflight = none)
    (sequencer : ∀ f, t.inflight = some f → t.onTrack f) : t.Inv := by
  obtain ⟨hrk, hkeyed, -, hkpos, -, herr, hresult⟩ := Visible.mk.inj ha
  refine State.inv_of ?_ ?_ ?_ doneIdle sequencer
  · rw [hkeyed, hrk]; exact h.keyedSchedule
  · rw [hkpos]; exact h.kposRange
  · rw [herr, hresult]; exact h.errorResult

theorem State.Inv.sampled (h : s.Inv) : s.sampled.Inv :=
  h.of_arch rfl h.doneIdle fun f hf => State.onTrack_congr (h.sequencer f hf) rfl rfl

theorem State.Inv.idleEdge (h : s.Inv) : s.idleEdge.Inv :=
  h.of_arch rfl (fun hd => by cases hd) fun f hf => State.onTrack_congr (h.sequencer f hf) rfl rfl

theorem State.Inv.acceptOffer (h : s.Inv) : (acceptOffer s).Inv :=
  h.of_arch rfl (fun hd => by cases hd) fun f hf => by
    cases hf
    exact State.onTrack_congr (s.onTrack_accept _ _ _) rfl rfl

theorem State.Inv.waitEdge {f : InFlight} (h : s.Inv) (hf : s.inflight = some f) (left n : Nat) :
    (s.sampled.waitEdge f left (Sequencer.advance f.cw f.cd s n f.seq)).Inv :=
  h.of_arch rfl (fun hd => by cases hd) fun g hg => by
    cases hg
    exact State.onTrack_congr (State.onTrack_advance (h.sequencer f hf) left n) rfl rfl

theorem State.Inv.complete (h : s.Inv) (v : Block) : (s.complete v).Inv :=
  State.inv_of_idle h.keyedSchedule h.kposRange (fun he => absurd rfl he) rfl

theorem State.Inv.raiseErr (h : s.Inv) (c : ErrCode) : (s.raiseErr c).Inv :=
  State.inv_of_idle h.keyedSchedule h.kposRange (fun _ => rfl) rfl

/-- Every command keeps the invariant: RK only ever gets a key schedule, and KPOS a value in 0..8. -/
theorem CommandEffect.keeps_inv {i : Instr} (h : CommandEffect s i t) (hs : s.Inv) : t.Inv := by
  cases h with
  | result v hk => exact hs.complete v
  | error c hk => exact hs.raiseErr c
  | keys k => exact State.inv_of_idle (fun _ => ⟨k, rfl⟩) hs.kposRange (fun he => absurd rfl he) rfl
  | stream k iv =>
    exact State.inv_of_idle (fun _ => ⟨k, rfl⟩) (by decide : (8#4).toNat ≤ 8) (fun he => absurd rfl he) rfl
  | byte ks' k v hb hc hk =>
    refine State.inv_of_idle (fun _ => ?_) hk (fun he => absurd rfl he) rfl
    obtain ⟨key, hkey⟩ := hs.keyedSchedule (State.keyed_of_streaming hc)
    exact ⟨key, (State.rk_of_streaming hc).symm.trans hkey⟩

theorem State.Inv.execute {cw : CmdWord} {cd : CmdData} (hs : s.Inv) (h : execute cw cd s = .next t) : t.Inv := by
  rcases execute_next h with ⟨i, -, he⟩ | ⟨e, -, rfl⟩
  · exact (exec_effect he).keeps_inv hs
  · exact hs.raiseErr _

/-- Settles O21, by the five kinds of rising edge. -/
theorem everyStepKeepsTheInvariant : Obligations.EveryStepKeepsTheInvariant := by
  intro s t hs h
  rcases step_next h with ⟨-, rfl⟩ | ⟨-, -, -, rfl⟩ | ⟨-, -, -, rfl⟩ | ⟨-, f, n, hf, -, rfl⟩ | ⟨-, f, -, -, he⟩
  · exact State.afterReset_inv _ _
  · exact hs.acceptOffer
  · exact hs.sampled.idleEdge
  · exact hs.waitEdge hf n _
  · exact hs.sampled.execute he

/-- Settles O20. -/
theorem invariantHoldsAfterReset : Obligations.InvariantHoldsAfterReset :=
  State.afterReset_inv

end Sys2Proof.Machine
end

section
/-! The registers of 10_state.md: what STATUS shows, what reset leaves, which commands and edges write which register, and
what they read. -/

namespace Sys2Proof.Machine

open Sys2Proof.Spec

/-! ### STATUS -/

/-- Every bit of STATUS, by the layout of R29. -/
theorem State.getLsbD_status (s : State) (i : Nat) :
    s.status.getLsbD i =
      if i = 0 then s.busy else if i = 1 then s.keyed else if i = 2 then s.cfbRdy else if i = 3 then false
      else if i < 8 then s.err.code.getLsbD (i - 4) else s.kpos.getLsbD (i - 8) := by
  have layout : s.status.getLsbD i =
      (0#4 ++ s.kpos ++ s.err.code ++ 0#1 ++ BitVec.ofBool s.cfbRdy ++ BitVec.ofBool s.keyed ++
        BitVec.ofBool s.busy).getLsbD i := rfl
  rw [layout]
  simp only [BitVec.getLsbD_append, BitVec.getLsbD_ofBool, BitVec.getLsbD_zero]
  grind

/-- Settles O19. -/
theorem statusHasItsFields : Obligations.StatusHasItsFields := by
  intro s
  refine ⟨s.getLsbD_status 0, s.getLsbD_status 1, s.getLsbD_status 2, s.getLsbD_status 3,
    BitVec.eq_of_getLsbD_eq ?_, BitVec.eq_of_getLsbD_eq ?_, BitVec.eq_of_getLsbD_eq ?_⟩
  all_goals
    intro i hi
    rw [BitVec.getLsbD_extractLsb', State.getLsbD_status]
    grind

/-- Settles O12: RK and KS are unwritten, and the STATUS bits of the other registers add up to KPOS = 8 alone. -/
theorem resetStateHasTheStatedValues : Obligations.ResetStateHasTheStatedValues :=
  ⟨rfl, rfl, rfl, rfl, rfl, rfl, rfl, rfl, rfl⟩

/-! ### Which commands and edges write which register -/

/-- Settles O23, by the effects that a command can have. -/
theorem commandsWriteOnlyTheirOwnState : Obligations.CommandsWriteOnlyTheirOwnState := by
  intro i s t h
  obtain ⟨hdone, hidle, hpins, hdraws⟩ := exec_next_completes h
  have hbusy : t.busy = false := by rw [State.busy, hidle]; rfl
  exact ⟨(exec_effect h).keeps_keys, (exec_effect h).keeps_buffer, hdone, hbusy, hpins, hdraws⟩

/-- Without a reset no edge clears KEYED (R23). -/
theorem step_keeps_keyed {s t : State} (hk : s.keyed = true) (hr : s.pin.rst = false) (h : step s = .next t) :
    t.keyed = true := by
  rcases step_next h with
    ⟨hrst, -⟩ | ⟨-, -, -, rfl⟩ | ⟨-, -, -, rfl⟩ | ⟨-, f, n, -, -, rfl⟩ | ⟨-, f, -, -, he⟩
  · simp [hr] at hrst
  · exact hk
  · exact hk
  · exact hk
  · rcases execute_next he with ⟨i, -, hi⟩ | ⟨e, -, rfl⟩
    · exact (exec_effect hi).keeps_keyed hk
    · exact hk

/-- Settles O26. -/
theorem keyedIsClearedOnlyByReset : Obligations.KeyedIsClearedOnlyByReset :=
  ⟨fun _ _ => step_keeps_keyed, fun _ _ _ hi h => (exec_effect h).keyed_of_isSetkey hi⟩

/-! ### What commands and edges do not read -/

/-- Settles O25: the command in flight, which `execute_overwrites` replaces too, is left as it is. -/
theorem errIsWrittenByEveryCommandAndNotSticky : Obligations.ErrIsWrittenByEveryCommandAndNotSticky :=
  fun cw cd s e v d => execute_overwrites cw cd s e v d s.inflight

/-- A completion edge does not read the sequencer (R35): the command's effects are those of its own rule. -/
theorem step_sequencer_of_completion {s : State} {f : InFlight} (q : Sequencer) (hf : s.inflight = some f)
    (hl : f.left = 0) : step { s with inflight := some { f with seq := q } } = step s := by
  cases hr : s.pin.rst with
  | true => rw [step_of_reset hr]; exact step_of_reset hr
  | false =>
    rw [step_of_completion hr hf hl]
    exact (step_of_completion (s := { s with inflight := some { f with seq := q } }) hr rfl hl).trans
      (execute_overwrites f.cw f.cd s.sampled s.err s.result s.done (some { f with seq := q }))

/-- Settles O27: a completion edge overwrites the sequencer, a reset drops it, and a waiting edge hands it on to no register
but itself. -/
theorem hiddenRegistersInfluenceNothing : Obligations.HiddenRegistersInfluenceNothing := by
  intro s f q hf
  refine ⟨step_sequencer_of_completion q hf, fun t hl h => ?_⟩
  cases hr : s.pin.rst with
  | true =>
    rw [step_of_reset hr] at h
    cases h
    exact ⟨_, step_of_reset hr, rfl, rfl, rfl, rfl, rfl⟩
  | false =>
    obtain ⟨n, hn⟩ := Nat.exists_eq_succ_of_ne_zero hl
    rw [step_of_wait hr hf hn] at h
    cases h
    exact ⟨_, step_of_wait (s := { s with inflight := some { f with seq := q } }) hr rfl hn, rfl, rfl, rfl, rfl, rfl⟩

/-! ### No command reads an unwritten table -/

/-- At a KPOS in 0..8 a byte command always completes, in or out of a stream (R25, 43_cfb.md R203, R204). -/
theorem cfbByte_goesOn (d : Direction) (a : Byte) {s : State} (h : s.kpos.toNat ≤ 8) : goesOn (cfbByte d a s) := by
  unfold cfbByte
  cases s.cipher with
  | unkeyed => exact ⟨_, rfl⟩
  | keyed rk b => exact ⟨_, rfl⟩
  | streaming rk ks =>
    simp only [byteStep_index (streamBuffer_index h)]
    exact ⟨_, rfl⟩

/-- In a stream, a KPOS of 9 to 15 stops a byte command by name (log 9). -/
theorem cfbByte_faults (d : Direction) (a : Byte) {s : State} (hr : s.cfbRdy = true) (hk : 9 ≤ s.kpos.toNat) :
    cfbByte d a s = .fault .kposOutOfRange := by
  obtain ⟨rk, ks, hc⟩ := State.cipher_of_cfbRdy hr
  have notSpent : s.kpos ≠ 8 := fun e => by rw [e] at hk; exact absurd hk (by decide)
  have noIndex : ¬ s.kpos.toNat < 8 := by omega
  simp [cfbByte, hc, streamBuffer_held notSpent, byteStep, noIndex]

/-- Settles O29. -/
theorem noCommandReadsAnUnwrittenTable : Obligations.NoCommandReadsAnUnwrittenTable := by
  refine ⟨fun s => by rw [State.keyed_eq_rk_isSome], fun s hr => ?_, fun x s => ?_, fun a s hk => ?_,
    fun a s hr hk => ⟨cfbByte_faults .enc a hr hk, cfbByte_faults .dec a hr hk⟩⟩
  · have hkeyed := State.keyed_of_cfbRdy hr
    exact ⟨hkeyed, (State.keyed_eq_rk_isSome s).symm.trans hkeyed, State.ks_isSome_of_cfbRdy hr⟩
  · rcases execBlkEnc_next x s with ⟨-, h⟩ | ⟨rk, -, -, h⟩
    · exact ⟨_, h⟩
    · exact ⟨_, h⟩
  · obtain ⟨t, ht⟩ := cfbByte_goesOn .enc a hk
    obtain ⟨u, hu⟩ := cfbByte_goesOn .dec a hk
    exact ⟨t, u, ht, hu⟩

end Sys2Proof.Machine
end

section
/-! The port (20_memory.md R53 to R58): what each kind of rising edge does to the registers and the outputs. -/

namespace Sys2Proof.Machine

variable {s t : State}

/-! ### The handshake -/

theorem State.busy_eq_false_iff : s.busy = false ↔ s.inflight = none := by
  simp [State.busy]

/-- R54. -/
theorem State.cmdReady_iff : s.cmdReady = true ↔ s.pin.rst = false ∧ s.busy = false := by
  simp [State.cmdReady]

/-- An offer to an idle core is accepted (R53). -/
theorem step_of_accept (hr : s.pin.rst = false) (hi : s.inflight = none) (hv : s.pin.cmdValid = true) :
    step s = .next (acceptOffer s) := by
  have ready : s.cmdReady = true := State.cmdReady_iff.2 ⟨hr, State.busy_eq_false_iff.2 hi⟩
  simp [step, risingEdge, hr, hi, hv, ready]

/-- Without an offer an idle core stays idle. -/
theorem step_of_idle (hr : s.pin.rst = false) (hi : s.inflight = none) (hv : s.pin.cmdValid = false) :
    step s = .next s.sampled.idleEdge := by
  simp [step, risingEdge, hr, hi, hv]

/-- Settles O15, one kind of edge for each clause. -/
theorem offersAreAcceptedOnlyWhenReady : Obligations.OffersAreAcceptedOnlyWhenReady := by
  refine ⟨fun s => State.cmdReady_iff, fun s ready hv => ?_, fun s ready hv => ?_,
    fun s f hr hf => ⟨fun hl => step_of_completion hr hf hl, fun n hl => ⟨_, step_of_wait hr hf hl⟩⟩⟩
  · obtain ⟨hr, idle⟩ := State.cmdReady_iff.1 ready
    exact ⟨_, _, step_of_accept hr (State.busy_eq_false_iff.1 idle) hv, rfl, rfl, rfl, rfl, rfl, rfl, rfl, rfl⟩
  · obtain ⟨hr, idle⟩ := State.cmdReady_iff.1 ready
    exact step_of_idle hr (State.busy_eq_false_iff.1 idle) hv

/-! ### The outputs while a command is in flight -/

/-- STATUS shows the architectural registers and BUSY, and nothing else (10_state.md R29). -/
theorem State.status_congr (ha : t.arch = s.arch) (hb : t.busy = s.busy) : t.status = s.status := by
  obtain ⟨-, hkeyed, -, hkpos, hready, herr, -⟩ := Visible.mk.inj ha
  simp only [State.status, hkeyed, hkpos, hready, herr, hb]

/-- When BUSY becomes 1 over unchanged registers, bit 0 of STATUS does, and no other (10_state.md R29, R30). -/
theorem State.status_of_busy (ha : t.arch = s.arch) (hb : t.busy = true) : t.status = s.status ||| 1 := by
  obtain ⟨-, hkeyed, -, hkpos, hready, herr, -⟩ := Visible.mk.inj ha
  apply BitVec.eq_of_getLsbD_eq
  intro i hi
  rw [BitVec.getLsbD_or, State.getLsbD_status, State.getLsbD_status, hkeyed, hkpos, hready, herr, hb]
  by_cases bit0 : i = 0 <;> simp [bit0]

/-- Settles O17: neither the acceptance edge nor a waiting edge writes an architectural register. -/
theorem outputsHoldWhileBusy : Obligations.OutputsHoldWhileBusy := by
  refine ⟨fun s t hi hr hv h => ?_, fun s t f n hf hl hr h => ?_⟩
  · rw [step_of_accept hr hi hv] at h
    cases h
    exact ⟨rfl, State.status_of_busy rfl rfl⟩
  · have busy : s.busy = true := by rw [State.busy, hf]; rfl
    rw [step_of_wait hr hf hl] at h
    cases h
    exact ⟨rfl, State.status_congr rfl busy.symm, (s.getLsbD_status 0).trans busy⟩

/-! ### `done` -/

/-- Every completion, with a decode error too, raises `done`, leaves nothing in flight, and touches neither the host's
script nor the count of acceptances (44_control.md R231). -/
theorem execute_next_completes {cw : CmdWord} {cd : CmdData} (h : execute cw cd s = .next t) :
    t.done = true ∧ t.inflight = none ∧ t.pins = s.pins ∧ t.draws = s.draws := by
  rcases execute_next h with ⟨i, -, he⟩ | ⟨e, -, rfl⟩
  · exact exec_next_completes he
  · exact ⟨rfl, rfl, rfl, rfl⟩

/-- Settles O18, by the five kinds of rising edge: only the completion edge raises `done`. -/
theorem donePulsesExactlyAfterCompletion : Obligations.DonePulsesExactlyAfterCompletion := by
  intro s t h
  rcases step_next h with
    ⟨hr, rfl⟩ | ⟨-, hi, -, rfl⟩ | ⟨-, hi, -, rfl⟩ | ⟨-, f, n, hf, hl, rfl⟩ | ⟨hr, f, hf, hl, he⟩
  · simp [hr]
  · simp [hi, acceptOffer]
  · simp [hi]
  · simp [hf, hl]
  · exact iff_of_true (execute_next_completes he).1 ⟨hr, f, hf, hl⟩

end Sys2Proof.Machine
end

section
/-! Runs of the machine: a command from its acceptance to its completion as one transition (20_memory.md R55, R56). -/

namespace Sys2Proof.Machine

variable {s t : State}

/-! ### Runs, edge by edge -/

section Runs

variable {M : Host.Core} {x y : M.State}

theorem run_succ (n : Nat) (h : M.step x = .next y) : M.run (n + 1) x = M.run n y := by
  rw [Host.Core.run, h]

theorem run_one (x : M.State) : M.run 1 x = M.step x := by
  rw [Host.Core.run]
  cases M.step x <;> rfl

/-- A run in two parts. -/
theorem run_add {a : Nat} (b : Nat) (h : M.run a x = .next y) : M.run (a + b) x = M.run b y := by
  induction a generalizing x with
  | zero => cases h; rw [Nat.zero_add]
  | succ a ih =>
    rw [Host.Core.run] at h
    cases hs : M.step x with
    | next z =>
      rw [hs] at h
      rw [Nat.succ_add, run_succ _ hs]
      exact ih h
    | fault r => rw [hs] at h; cases h
    | refused r => rw [hs] at h; cases h

end Runs

/-! ### The edges of one command -/

/-- A host that resets at none of the next edges does not at the next one, even if its script is used up (log 3). -/
theorem State.pin_rst_of_take {n : Nat} (h : ∀ p ∈ s.pins.take (n + 1), p.rst = false) : s.pin.rst = false := by
  unfold State.pin
  cases hp : s.pins with
  | nil => rfl
  | cons p ps => exact h p (by simp [hp])

/-- After an edge, one edge less remains of those at which the host does not reset. -/
theorem State.tail_rst_of_take {n : Nat} (h : ∀ p ∈ s.pins.take (n + 1), p.rst = false) :
    ∀ p ∈ s.pins.tail.take n, p.rst = false := by
  cases hp : s.pins with
  | nil => simp
  | cons p ps =>
    intro q hq
    exact h q (by rw [hp, List.take_succ_cons]; exact List.mem_cons_of_mem p hq)

/-- The waiting edges of a command in flight: only the script, the count of edges and the sequencer move (R56). -/
theorem run_waiting {f : InFlight} {left : Nat} (n : Nat) (hd : s.done = false) (hf : s.inflight = some f)
    (hl : f.left = left + n) (hr : ∀ p ∈ s.pins.take n, p.rst = false) :
    ∃ q, core.run n s =
      .next { s with pins := s.pins.drop n, inflight := some { f with left := left, seq := q } } := by
  induction n generalizing s f with
  | zero =>
    have same : some { f with left := left } = s.inflight := by rw [hf, show left = f.left from hl.symm]
    exact ⟨f.seq, by rw [same]; rfl⟩
  | succ n ih =>
    have edge := step_of_wait (n := left + n) (State.pin_rst_of_take hr) hf hl
    obtain ⟨q, hq⟩ := ih (s := s.sampled.waitEdge f (left + n) _) rfl rfl rfl (State.tail_rst_of_take hr)
    refine ⟨q, (run_succ (M := core) n edge).trans (hq.trans ?_)⟩
    simp [State.waitEdge, State.sampled, hd]

/-- The edges from acceptance on, up to the last before completion (R53, R56). -/
theorem run_busy {n : Nat} (hi : s.inflight = none) (hv : s.pin.cmdValid = true)
    (hr : ∀ p ∈ s.pins.take (n + 1), p.rst = false) (hn : n < latency s.pin.cmdWord s) :
    ∃ q, core.run (n + 1) s = .next
      { s with
        done := false
        pins := s.pins.drop (n + 1)
        draws := s.draws + 1
        inflight := some
          { cw := s.pin.cmdWord, cd := s.pin.cmdData, left := latency s.pin.cmdWord s - 1 - n, seq := q } } := by
  have edge := step_of_accept (State.pin_rst_of_take hr) hi hv
  obtain ⟨q, hq⟩ := run_waiting (s := acceptOffer s) (left := latency s.pin.cmdWord s - 1 - n) n rfl rfl
    (show latency s.pin.cmdWord s - 1 = _ by omega) (State.tail_rst_of_take hr)
  refine ⟨q, (run_succ (M := core) n edge).trans (hq.trans ?_)⟩
  simp [acceptOffer, State.acceptEdge, State.sampled]

/-- A command in flight at a host that does not reset runs to its completion edge, which executes it on the registers of
now (R55): it overwrites what the waiting edges have moved. -/
theorem run_inflight {f : InFlight} {left : Nat} (hf : s.inflight = some f) (hl : f.left = left)
    (hr : ∀ p ∈ s.pins.take (left + 1), p.rst = false) :
    core.run (left + 1) s = execute f.cw f.cd { s with pins := s.pins.drop (left + 1) } := by
  induction left generalizing s f with
  | zero =>
    rw [List.drop_one]
    exact (run_one (M := core) s).trans (step_of_completion (State.pin_rst_of_take hr) hf hl)
  | succ left ih =>
    have edge := step_of_wait (State.pin_rst_of_take hr) hf hl
    refine (run_succ (M := core) _ edge).trans ((ih rfl rfl (State.tail_rst_of_take hr)).trans ?_)
    rw [State.waitEdge_pins, State.sampled_pins, List.drop_tail]
    exact execute_overwrites _ _ { s with pins := s.pins.drop (left + 2) } _ _ _ _

/-- The run from an offer through the completion edge is `Execute` on the registers at acceptance (R55, R56). -/
theorem run_command (hi : s.inflight = none) (hv : s.pin.cmdValid = true)
    (hr : ∀ p ∈ s.pins.take (latency s.pin.cmdWord s + 1), p.rst = false) :
    core.run (latency s.pin.cmdWord s + 1) s =
      execute s.pin.cmdWord s.pin.cmdData
        { s with pins := s.pins.drop (latency s.pin.cmdWord s + 1), draws := s.draws + 1 } := by
  have edge := step_of_accept (State.pin_rst_of_take hr) hi hv
  have rest := run_inflight (s := acceptOffer s) (left := latency s.pin.cmdWord s - 1) rfl rfl
    (State.tail_rst_of_take hr)
  refine (run_succ (M := core) _ edge).trans (rest.trans ?_)
  rw [acceptOffer, State.acceptEdge_pins, State.sampled_pins, List.drop_tail]
  exact execute_overwrites _ _
    { s with pins := s.pins.drop (latency s.pin.cmdWord s + 1), draws := s.draws + 1 } _ _ _ _

/-- Settles O16, by the edges up to the last before completion and the run through the completion edge. -/
theorem everyCommandIsOneAtomicTransition : Obligations.EveryCommandIsOneAtomicTransition := by
  intro s hi hv hr
  refine ⟨fun k hk1 hk => ?_, run_command hi hv hr⟩
  obtain ⟨n, rfl⟩ : ∃ n, k = n + 1 := ⟨k - 1, by omega⟩
  obtain ⟨q, hq⟩ := run_busy hi hv (fun p hp => hr p (List.take_subset_take_left _ (by omega) hp)) hk
  exact ⟨_, hq, rfl, rfl, rfl⟩

end Sys2Proof.Machine
end

section
/-! Programs at the port and the composition of commands (20_memory.md R59): the machine's run is cut into segments, one
for each pause and each command, and each segment shows what the composition lists for it. -/

namespace Sys2Proof.Machine

open Sys2Proof.Spec

variable {s t : State}

/-! ### Every command goes on, and none reads the host's side of the state -/

/-- At a KPOS in 0..8 every command completes (44_control.md R231). -/
theorem exec_goesOn (i : Instr) (hk : s.kpos.toNat ≤ 8) : goesOn (exec i s) := by
  cases i with
  | nop | gfMul | gfAdd | sub | perm | mix | rt | blkSetkey | blkDec | cfbSetkey => exact ⟨_, rfl⟩
  | sbox n a =>
    simp only [exec, execSbox]
    split <;> exact ⟨_, rfl⟩
  | blkEnc x =>
    rcases execBlkEnc_next x s with ⟨-, h⟩ | ⟨rk, -, -, h⟩ <;> exact ⟨_, h⟩
  | cfbEnc a => exact cfbByte_goesOn .enc a hk
  | cfbDec a => exact cfbByte_goesOn .dec a hk

theorem execute_goesOn (cw : CmdWord) (cd : CmdData) (hk : s.kpos.toNat ≤ 8) : goesOn (execute cw cd s) := by
  unfold execute
  cases decode cw cd with
  | ok i => exact exec_goesOn i hk
  | error e => exact ⟨_, rfl⟩

theorem cfbByte_host {d : Direction} {a : Byte} (script : List Pins) (count : Nat) (h : cfbByte d a s = .next t) :
    cfbByte d a { s with pins := script, draws := count } = .next { t with pins := script, draws := count } := by
  obtain ⟨cipher, kpos, err, result, done, inflight, pins, draws⟩ := s
  cases cipher with
  | unkeyed | keyed rk b => cases h; rfl
  | streaming rk ks =>
    unfold cfbByte at h ⊢
    dsimp only at h ⊢
    cases hs : byteStep d a (streamBuffer rk ks kpos).1 (streamBuffer rk ks kpos).2 with
    | none => rw [hs] at h; cases h
    | some r => rw [hs] at h; cases h; rfl

/-- A command reads neither the host's script nor the count of acceptances, and hands both on. -/
theorem exec_host {i : Instr} (script : List Pins) (count : Nat) (h : exec i s = .next t) :
    exec i { s with pins := script, draws := count } = .next { t with pins := script, draws := count } := by
  cases i with
  | nop | gfMul | gfAdd | sub | perm | mix | rt | blkSetkey | blkDec | cfbSetkey => cases h; rfl
  | sbox n a =>
    by_cases illegal : n.toNat < 1 ∨ n.toNat > 8
    · rw [exec, execSbox, if_pos illegal] at h ⊢
      cases h; rfl
    · rw [exec, execSbox, if_neg illegal] at h ⊢
      cases h; rfl
  | blkEnc x =>
    obtain ⟨cipher, kpos, err, result, done, inflight, pins, draws⟩ := s
    cases cipher with
    | unkeyed | keyed rk b | streaming rk ks => cases h; rfl
  | cfbEnc a | cfbDec a => exact cfbByte_host script count h

theorem execute_host {cw : CmdWord} {cd : CmdData} (script : List Pins) (count : Nat)
    (h : execute cw cd s = .next t) :
    execute cw cd { s with pins := script, draws := count } = .next { t with pins := script, draws := count } := by
  rcases execute_next h with ⟨i, hd, he⟩ | ⟨e, hd, rfl⟩
  · simp only [execute, hd, exec_host script count he]
  · simp only [execute, hd]; rfl

theorem execute_pins {cw : CmdWord} {cd : CmdData} (script : List Pins) (h : execute cw cd s = .next t) :
    execute cw cd { s with pins := script } = .next { t with pins := script } := by
  obtain ⟨-, -, -, hdraws⟩ := execute_next_completes h
  have framed := execute_host script s.draws h
  rw [← hdraws] at framed ⊢
  exact framed

/-- The composition runs a command that goes on, and then the others. -/
theorem runProgram_cons {c : Command} {cs : List Command} {seen : List (Block × BitVec 16)} {u : State}
    (h : execute c.word c.data s = .next t) (hrest : runProgram cs t = some (seen, u)) :
    runProgram (c :: cs) s = some ((t.result, t.status) :: seen, u) := by
  simp only [runProgram, h, hrest]

theorem afterCommand_of_next {c : Command} (h : execute c.word c.data { s with draws := s.draws + 1 } = .next t) :
    afterCommand c s = t := by
  rw [afterCommand, h]

/-! ### Segments of a run -/

/-- A completion that a host sees: the edge after which `done` = 1, and RESULT and STATUS then. -/
abbrev Completion := Nat × Block × BitVec 16

/-- The completions of a run that starts only after so many edges. -/
def delayed (edges : Nat) (events : List Completion) : List Completion :=
  events.map fun e => (edges + e.1, e.2)

@[simp] theorem map_snd_delayed (edges : Nat) (events : List Completion) :
    (delayed edges events).map Prod.snd = events.map Prod.snd := by
  simp [delayed]

@[simp] theorem length_delayed (edges : Nat) (events : List Completion) :
    (delayed edges events).length = events.length := List.length_map _

theorem mem_delayed {edges m : Nat} {events : List Completion} {x : Block × BitVec 16} :
    (edges + m, x) ∈ delayed edges events ↔ (m, x) ∈ events := by
  simp [delayed]

theorem lt_of_mem_delayed {edges : Nat} {events : List Completion} {e : Completion}
    (pos : ∀ e ∈ events, 1 ≤ e.1) (he : e ∈ delayed edges events) : edges < e.1 := by
  obtain ⟨e', he', rfl⟩ := List.mem_map.1 he
  have := pos e' he'
  exact show edges < edges + e'.1 by omega

/-- A run of so many edges from s to t, and the completions in it: at rising edges, none at the start, and after an edge
`done` = 1 exactly when a completion is listed for it, with the RESULT and STATUS of then. -/
structure Segment (s : State) (edges : Nat) (events : List Completion) (t : State) : Prop where
  ends : core.run edges s = .next t
  rising : events.Pairwise fun e e' => e.1 < e'.1
  within : ∀ e ∈ events, 1 ≤ e.1 ∧ e.1 ≤ edges
  shown : ∀ m, 1 ≤ m → m ≤ edges → ∃ v : State, core.run m s = .next v ∧
    ∀ x, (m, x) ∈ events ↔ v.done = true ∧ x = (v.result, v.status)

namespace Segment

theorem refl (s : State) : Segment s 0 [] s where
  ends := rfl
  rising := .nil
  within := by simp
  shown := fun m hm hm0 => by omega

/-- Two segments, one after the other. -/
theorem trans {u : State} {a b : Nat} {xs ys : List Completion} (h : Segment s a xs t) (k : Segment t b ys u) :
    Segment s (a + b) (xs ++ delayed a ys) u where
  ends := (run_add (M := core) b h.ends).trans k.ends
  rising := by
    refine List.pairwise_append.2 ⟨h.rising, List.pairwise_map.2 (k.rising.imp (by simp)), fun e he e' he' => ?_⟩
    have before := (h.within e he).2
    have after := lt_of_mem_delayed (fun y hy => (k.within y hy).1) he'
    omega
  within := by
    intro e he
    rcases List.mem_append.1 he with he | he
    · have := h.within e he
      omega
    · obtain ⟨y, hy, rfl⟩ := List.mem_map.1 he
      have := k.within y hy
      exact show 1 ≤ a + y.1 ∧ a + y.1 ≤ a + b by omega
  shown := by
    intro m hm hmab
    by_cases first : m ≤ a
    · obtain ⟨v, hv, seen⟩ := h.shown m hm first
      refine ⟨v, hv, fun x => ?_⟩
      have notLater : (m, x) ∉ delayed a ys := fun hx =>
        absurd (lt_of_mem_delayed (fun y hy => (k.within y hy).1) hx) (by simpa using first)
      rw [List.mem_append, or_iff_left notLater, seen x]
    · obtain ⟨j, rfl⟩ : ∃ j, m = a + j := ⟨m - a, by omega⟩
      obtain ⟨v, hv, seen⟩ := k.shown j (by omega) (by omega)
      refine ⟨v, (run_add (M := core) j h.ends).trans hv, fun x => ?_⟩
      have notEarlier : (a + j, x) ∉ xs := fun hx => first (h.within _ hx).2
      rw [List.mem_append, or_iff_right notEarlier, mem_delayed, seen x]

/-- An edge without an offer. -/
theorem pause (hr : s.pin.rst = false) (hi : s.inflight = none) (hv : s.pin.cmdValid = false) :
    Segment s 1 [] s.sampled.idleEdge where
  ends := (run_one (M := core) s).trans (step_of_idle hr hi hv)
  rising := .nil
  within := by simp
  shown := by
    intro m hm hm1
    obtain rfl : m = 1 := by omega
    exact ⟨_, (run_one (M := core) s).trans (step_of_idle hr hi hv), by simp⟩

/-- A command from its acceptance edge through its completion edge. -/
theorem command (hi : s.inflight = none) (hv : s.pin.cmdValid = true)
    (hr : ∀ p ∈ s.pins.take (latency s.pin.cmdWord s + 1), p.rst = false)
    (h : execute s.pin.cmdWord s.pin.cmdData
      { s with pins := s.pins.drop (latency s.pin.cmdWord s + 1), draws := s.draws + 1 } = .next t) :
    Segment s (latency s.pin.cmdWord s + 1) [(latency s.pin.cmdWord s + 1, t.result, t.status)] t where
  ends := (run_command hi hv hr).trans h
  rising := List.pairwise_singleton _ _
  within := by simp
  shown := by
    intro m hm hmL
    by_cases last : m = latency s.pin.cmdWord s + 1
    · subst last
      have hdone := (execute_next_completes h).1
      exact ⟨t, (run_command hi hv hr).trans h, by simp [hdone]⟩
    · obtain ⟨v, hrun, -, -, hdone⟩ := (everyCommandIsOneAtomicTransition s hi hv hr).1 m hm (by omega)
      exact ⟨v, hrun, fun x => by simp [last, hdone]⟩

end Segment

/-! ### The host's offers, one after another -/

/-- The sample by which the host offers a command. -/
def offerOf (c : Command) : Pins := { rst := false, cmdValid := true, cmdWord := c.word, cmdData := c.data }

/-- An offered command with its LAT edges: what the host drives at those edges has no effect, and the command does what
it does without the host's samples. -/
theorem Segment.offer {c : Command} {busy samples : List Pins} (done : Bool) (hi : s.inflight = none)
    (hlen : busy.length = latency c.word s) (hrst : ∀ p ∈ busy, p.rst = false)
    (h : execute c.word c.data { s with draws := s.draws + 1 } = .next t) :
    Segment { s with pins := offerOf c :: (busy ++ samples), done := done } (latency c.word s + 1)
      [(latency c.word s + 1, t.result, t.status)] { t with pins := samples } := by
  refine Segment.command (s := { s with pins := offerOf c :: (busy ++ samples), done := done })
    (t := { t with pins := samples }) hi rfl ?_ ?_
  · have window : (offerOf c :: (busy ++ samples)).take (latency c.word s + 1) = offerOf c :: busy := by
      rw [List.take_succ_cons, List.take_left' hlen]
    intro p hp
    rcases List.mem_cons.1 (window ▸ hp) with rfl | hp
    · rfl
    · exact hrst p hp
  · have rest : (offerOf c :: (busy ++ samples)).drop (latency c.word s + 1) = samples := by
      rw [List.drop_succ_cons, List.drop_left' hlen]
    show execute c.word c.data
        { s with
          done := done
          pins := (offerOf c :: (busy ++ samples)).drop (latency c.word s + 1)
          draws := s.draws + 1 } = _
    rw [rest]
    exact (execute_overwrites c.word c.data { s with pins := samples, draws := s.draws + 1 } _ _ done _).trans
      (execute_pins samples h)

/-- Counting one more acceptance keeps the invariant of an idle core. -/
theorem State.Inv.counted (h : s.Inv) (count : Nat) : ({ s with draws := count } : State).Inv :=
  h.of_arch rfl h.doneIdle fun f hf => State.onTrack_congr (h.sequencer f hf) rfl rfl

/-- A host's offers make one segment, which shows what the composition of the commands lists and ends idle with the
registers that it leaves. The composition runs beside any script and any count of acceptances. -/
theorem offered_segment {cs : List Command} {samples : List Pins} {edges : Nat} (h : Offered cs s samples edges)
    (hs : s.Inv) (hi : s.inflight = none) (done : Bool) (script : List Pins) (count : Nat) :
    ∃ events u t, Segment { s with pins := samples, done := done } edges events t ∧
      runProgram cs { s with pins := script, draws := count } = some (events.map Prod.snd, u) ∧
      events.length = cs.length ∧ t.inflight = none ∧ t.arch = u.arch := by
  induction h generalizing done with
  | finished s samples => exact ⟨[], _, _, .refl _, rfl, rfl, hi, rfl⟩
  | @pause cs s p samples n hr hv _ ih =>
    obtain ⟨events, u, t, run, composed, len, idle, regs⟩ := ih hs hi false
    have first := Segment.pause (s := { s with pins := p :: samples, done := done }) hr hi hv
    refine ⟨_, u, t, Nat.add_comm 1 n ▸ first.trans run, ?_, ?_, idle, regs⟩
    · simpa using composed
    · simpa using len
  | @command c cs s busy samples n hlen hrst _ ih =>
    obtain ⟨τ, hτ⟩ := execute_goesOn c.word c.data (hs.counted (s.draws + 1)).kposRange
    rw [afterCommand_of_next hτ] at ih
    obtain ⟨events, u, t, run, composed, len, idle, regs⟩ :=
      ih ((hs.counted _).execute hτ) (execute_next_completes hτ).2.1 τ.done
    have first := Segment.offer (samples := samples) done hi hlen hrst hτ
    refine ⟨_, u, t, Nat.add_comm 1 (latency c.word s) ▸ first.trans run, ?_, ?_, idle, regs⟩
    · rw [runProgram_cons (execute_host script count hτ) composed, List.map_append, map_snd_delayed]
      rfl
    · simpa using len

/-- Settles O28: the segment of all the offers lists the completion edges, and beside them what the composition lists. -/
theorem programsCompose : Obligations.ProgramsCompose := by
  intro cs s edges hs hi offers
  obtain ⟨events, u, t, run, composed, len, idle, regs⟩ := offered_segment offers hs hi s.done s.pins s.draws
  refine ⟨events.map Prod.snd, u, t, composed, by simpa using len, run.ends, idle, regs, events.map Prod.fst,
    by simpa using len, List.pairwise_map.2 run.rising, ?_, fun m hm hme => ?_⟩
  · intro m hm
    obtain ⟨e, he, rfl⟩ := List.mem_map.1 hm
    exact run.within e he
  · obtain ⟨v, hrun, seen⟩ := run.shown m hm hme
    refine ⟨v, hrun, ?_, fun k hk => ?_⟩
    · simp [seen]
    · rw [List.getElem?_map] at hk ⊢
      obtain ⟨⟨_, x⟩, he, rfl⟩ := Option.map_eq_some_iff.1 hk
      rw [he, ((seen x).1 (List.mem_of_getElem? he)).2]
      rfl

end Sys2Proof.Machine
end

section
/-! The fields of a command's word and data (30_encoding.md R81, R82), the decoder, and the encoder as its inverse. -/

namespace Sys2Proof

open Sys2Proof.Machine Sys2Proof.Spec

/-! ### The command word -/

theorem opField_commandWord (op : BitVec 8) (idx : BitVec 4) (rsvd : BitVec 20) :
    opField (commandWord op idx rsvd) = op :=
  BitVec.extractLsb'_append_eq_right

theorem idxField_commandWord (op : BitVec 8) (idx : BitVec 4) (rsvd : BitVec 20) :
    idxField (commandWord op idx rsvd) = idx :=
  (BitVec.extractLsb'_append_eq_of_le (by decide)).trans BitVec.extractLsb'_append_eq_right

theorem rsvdField_commandWord (op : BitVec 8) (idx : BitVec 4) (rsvd : BitVec 20) :
    rsvdField (commandWord op idx rsvd) = rsvd :=
  (BitVec.extractLsb'_append_eq_of_le (by decide)).trans BitVec.extractLsb'_append_eq_left

/-- The three fields of R81 make up the whole word. -/
theorem commandWord_fields (cw : CmdWord) : commandWord (opField cw) (idxField cw) (rsvdField cw) = cw := by
  have upper : (rsvdField cw ++ idxField cw : BitVec 24) = cw.extractLsb' 8 24 :=
    BitVec.extractLsb'_append_extractLsb'_eq_extractLsb' rfl
  rw [commandWord, upper]
  exact BitVec.extractLsb'_append_extractLsb'

theorem encode_fields (i : Instr) : Laws.EncodedFields.Statement i :=
  Laws.word_fields _ _

theorem encode_word (i : Instr) : (encode i).word = commandWord i.opcode i.indexField 0 := by
  obtain ⟨hop, hidx, hrsvd⟩ := encode_fields i
  rw [← hop, ← hidx, ← hrsvd, commandWord_fields]

/-! ### The command data -/

theorem extractLsb'_setWidth_self {w n : Nat} (x : BitVec w) (h : w ≤ n) : (x.setWidth n).extractLsb' 0 w = x := by
  rw [BitVec.extractLsb'_setWidth_of_le (by omega), BitVec.extractLsb'_eq_self]

/-- Of two fields side by side, the lower one. -/
theorem extractLsb'_or_lower {v w n : Nat} (x : BitVec v) (y : BitVec w) (h : w ≤ n) :
    ((x.setWidth n <<< w) ||| y.setWidth n).extractLsb' 0 w = y := by
  rw [← BitVec.setWidth_append_eq_shiftLeft_setWidth_or, BitVec.extractLsb'_setWidth_of_le (by omega),
    BitVec.extractLsb'_append_eq_right]

/-- Of two fields side by side, the upper one. -/
theorem extractLsb'_or_upper {v w n : Nat} (x : BitVec v) (y : BitVec w) (h : w + v ≤ n) :
    ((x.setWidth n <<< w) ||| y.setWidth n).extractLsb' w v = x := by
  rw [← BitVec.setWidth_append_eq_shiftLeft_setWidth_or, BitVec.extractLsb'_setWidth_of_le h,
    BitVec.extractLsb'_append_eq_left]

/-- A field put back in its place is the data masked to the bits of the field. -/
theorem setWidth_extractLsb'_shiftLeft {n : Nat} (x : BitVec n) (o w : Nat) :
    (x.extractLsb' o w).setWidth n <<< o = x &&& ((BitVec.allOnes w).setWidth n <<< o) := by
  ext i hi
  by_cases h : i < o
  · simp [h]
  · simp [h, show o + (i - o) = i by omega, BitVec.getLsbD_eq_getElem hi, Bool.and_comm]

/-- The lowest field, masked. -/
theorem setWidth_extractLsb' {n : Nat} (x : BitVec n) (w : Nat) :
    (x.extractLsb' 0 w).setWidth n = x &&& (BitVec.allOnes w).setWidth n := by
  simpa using setWidth_extractLsb'_shiftLeft x 0 w

/-- The two lowest fields side by side, masked. -/
theorem or_setWidth_extractLsb' {n : Nat} (x : BitVec n) (v w : Nat) :
    ((x.extractLsb' w v).setWidth n <<< w) ||| (x.extractLsb' 0 w).setWidth n =
      x &&& (BitVec.allOnes (v + w)).setWidth n := by
  rw [← BitVec.setWidth_append_eq_shiftLeft_setWidth_or,
    BitVec.extractLsb'_append_extractLsb'_eq_extractLsb' (by omega), setWidth_extractLsb']

/-! The fields that an encoder's data holds read back as what was put there. -/

@[simp] theorem fieldA_setWidth (a : Byte) : fieldA (a.setWidth 192) = a :=
  extractLsb'_setWidth_self a (by decide)

@[simp] theorem fieldA_or (a b : Byte) : fieldA ((b.setWidth 192 <<< 8) ||| a.setWidth 192) = a :=
  extractLsb'_or_lower b a (by decide)

@[simp] theorem fieldB_or (a b : Byte) : fieldB ((b.setWidth 192 <<< 8) ||| a.setWidth 192) = b :=
  extractLsb'_or_upper b a (by decide)

@[simp] theorem fieldX_setWidth (x : Block) : fieldX (x.setWidth 192) = x :=
  extractLsb'_setWidth_self x (by decide)

@[simp] theorem fieldIV_or (k : Key) (iv : Block) : fieldIV ((k.setWidth 192 <<< 64) ||| iv.setWidth 192) = iv :=
  extractLsb'_or_lower k iv (by decide)

@[simp] theorem fieldK_or (k : Key) (iv : Block) : fieldK ((k.setWidth 192 <<< 64) ||| iv.setWidth 192) = k :=
  extractLsb'_or_upper k iv (by decide)

@[simp] theorem fieldK_shiftLeft (k : Key) : fieldK (k.setWidth 192 <<< 64) = k := by
  simpa using fieldK_or k 0

/-! ### The opcode map, row by row -/

/-- The command of the same row of R84, with its operands read from these fields. -/
def Instr.withFields (idx : BitVec 4) (cd : CmdData) : Instr → Instr
  | .nop => .nop
  | .gfMul _ _ => .gfMul (fieldA cd) (fieldB cd)
  | .gfAdd _ _ => .gfAdd (fieldA cd) (fieldB cd)
  | .sbox _ _ => .sbox idx (fieldA cd)
  | .sub _ => .sub (fieldX cd)
  | .perm _ => .perm (fieldX cd)
  | .mix _ => .mix (fieldX cd)
  | .rt _ => .rt (fieldX cd)
  | .blkSetkey _ => .blkSetkey (fieldK cd)
  | .blkEnc _ => .blkEnc (fieldX cd)
  | .blkDec => .blkDec
  | .cfbSetkey _ _ => .cfbSetkey (fieldK cd) (fieldIV cd)
  | .cfbEnc _ => .cfbEnc (fieldA cd)
  | .cfbDec _ => .cfbDec (fieldA cd)

section Rows

variable (i : Instr) (idx : BitVec 4) (cd : CmdData)

/-- The opcode of a row names the row's command, with the operands that the fields hold. -/
theorem commandOf_opcode : commandOf i.opcode idx cd = some (i.withFields idx cd) := by
  cases i <;> rfl

theorem opcode_withFields : (i.withFields idx cd).opcode = i.opcode := by
  cases i <;> rfl

/-- Only `sbox` has an index field. -/
theorem indexField_withFields : (i.withFields idx cd).indexField = if i.opcode = 0x08 then idx else 0 := by
  cases i <;> rfl

theorem indexField_eq_zero {i : Instr} (h : i.opcode ≠ 0x08) : i.indexField = 0 := by
  cases i with
  | sbox => exact absurd rfl h
  | _ => rfl

/-- The data of a command read from cmd_data is cmd_data in the bits that the row reads (R82, R83). -/
theorem dataField_withFields : (i.withFields idx cd).dataField = cd &&& readMask i.opcode := by
  cases i with
  | nop | blkDec => exact BitVec.and_zero.symm
  | gfMul | gfAdd => exact or_setWidth_extractLsb' cd 8 8
  | sbox | cfbEnc | cfbDec => exact setWidth_extractLsb' cd 8
  | sub | perm | mix | rt | blkEnc => exact setWidth_extractLsb' cd 64
  | blkSetkey => exact setWidth_extractLsb'_shiftLeft cd 64 128
  | cfbSetkey => exact or_setWidth_extractLsb' cd 128 64

/-- The fields of the encoder's data are the command's operands. -/
theorem withFields_encoded : i.withFields i.indexField i.dataField = i := by
  cases i with
  | nop | blkDec => rfl
  | sbox => simp [Instr.withFields, Instr.dataField, Instr.indexField]
  | gfMul | gfAdd | sub | perm | mix | rt | blkSetkey | blkEnc | cfbSetkey | cfbEnc | cfbDec =>
    simp [Instr.withFields, Instr.dataField]

end Rows

/-- The opcode map lists the opcodes of the commands. -/
theorem mem_opcodes_iff {op : BitVec 8} : op ∈ opcodes ↔ ∃ i : Instr, i.opcode = op := by
  constructor
  · intro h
    have named : ∀ op ∈ opcodes, (commandOf op 0 0).map Instr.opcode = some op := by decide
    obtain ⟨i, -, hi⟩ := Option.map_eq_some_iff.1 (named op h)
    exact ⟨i, hi⟩
  · rintro ⟨i, rfl⟩
    cases i <;> simp [Instr.opcode, opcodes]

theorem commandOf_of_not_mem {op : BitVec 8} (idx : BitVec 4) (cd : CmdData) (h : op ∉ opcodes) :
    commandOf op idx cd = none := by
  simp only [opcodes, List.mem_cons, List.not_mem_nil, or_false, not_or] at h
  simp [commandOf, h]

/-! ### The checks of the decoder, in the order of R90 -/

section Decoder

variable {cw : CmdWord}

/-- A reserved bit of the word is set: in RSVD, or in IDX on a command that has no index (R86, R87). -/
def reservedBitsSet (cw : CmdWord) : Prop :=
  rsvdField cw ≠ 0 ∨ (opField cw ≠ 0x08 ∧ idxField cw ≠ 0)

theorem not_reservedBitsSet_iff :
    ¬ reservedBitsSet cw ↔ rsvdField cw = 0 ∧ (opField cw ≠ 0x08 → idxField cw = 0) := by
  simp only [reservedBitsSet, not_or, not_and, not_not]

theorem decode_illegalOp (cd : CmdData) (h : opField cw ∉ opcodes) : decode cw cd = .error .illegalOp := by
  simp [decode, commandOf_of_not_mem _ _ h]

theorem decode_rsvdField (cd : CmdData) (h : opField cw ∈ opcodes) (hset : reservedBitsSet cw) :
    decode cw cd = .error .rsvdField := by
  obtain ⟨i, hi⟩ := mem_opcodes_iff.1 h
  rw [decode, ← hi, commandOf_opcode, hi]
  split_ifs with hrsvd hidx
  · rfl
  · rfl
  · exact absurd hset (not_or.2 ⟨hrsvd, hidx⟩)

theorem decode_command (cd : CmdData) {i : Instr} (h : opField cw = i.opcode) (hclear : ¬ reservedBitsSet cw) :
    decode cw cd = .ok (i.withFields (idxField cw) cd) := by
  obtain ⟨hrsvd, hidx⟩ := not_or.1 hclear
  rw [decode, h, commandOf_opcode, ← h]
  exact (if_neg hrsvd).trans (if_neg hidx)

/-- All that the decoder can answer: one of the two errors, whatever the data, or the command of the word's row. -/
theorem decode_cases (cw : CmdWord) :
    (∃ e, ∀ cd, decode cw cd = .error e) ∨
      ∃ i : Instr, opField cw = i.opcode ∧ ¬ reservedBitsSet cw ∧
        ∀ cd, decode cw cd = .ok (i.withFields (idxField cw) cd) := by
  by_cases hop : opField cw ∈ opcodes
  · by_cases hset : reservedBitsSet cw
    · exact .inl ⟨_, fun cd => decode_rsvdField cd hop hset⟩
    · obtain ⟨i, hi⟩ := mem_opcodes_iff.1 hop
      exact .inr ⟨i, hi.symm, hset, fun cd => decode_command cd hi.symm hset⟩
  · exact .inl ⟨_, fun cd => decode_illegalOp cd hop⟩

end Decoder

end Sys2Proof
end

section
/-! The encoding of the commands (30_encoding.md): decoding inverts encoding, and what each wrong encoding raises. -/

namespace Sys2Proof

open Sys2Proof.Machine Sys2Proof.Spec

/-! ### Decoding and encoding are inverse to each other -/

/-- Settles O1: the word has the command's opcode and no reserved bit, and the fields of the data are its operands. -/
theorem decodeOfEncodeIsIdentity : Obligations.DecodeOfEncodeIsIdentity := by
  intro i
  obtain ⟨hop, hidx, hrsvd⟩ := encode_fields i
  have clear : ¬ reservedBitsSet (encode i).word :=
    not_reservedBitsSet_iff.2 ⟨hrsvd, fun notSbox => hidx.trans (indexField_eq_zero (hop ▸ notSbox))⟩
  rw [decode_command _ hop clear, hidx]
  exact congrArg Except.ok (withFields_encoded i)

/-- Settles O2: the word is made up of its fields, and the data is cmd_data in the bits of the row. -/
theorem decodedCommandHasEncodersWord : Obligations.DecodedCommandHasEncodersWord := by
  intro cw cd i h
  rcases decode_cases cw with ⟨e, he⟩ | ⟨j, hop, hclear, hj⟩
  · rw [he] at h
    cases h
  · obtain rfl := Except.ok.inj ((hj cd).symm.trans h)
    obtain ⟨hrsvd, hidx⟩ := not_reservedBitsSet_iff.1 hclear
    have index : (j.withFields (idxField cw) cd).indexField = idxField cw := by
      rw [indexField_withFields, ← hop, ite_eq_left_iff]
      exact fun notSbox => (hidx notSbox).symm
    constructor
    · rw [encode_word, opcode_withFields, index, ← hop, ← hrsvd, commandWord_fields]
    · rw [hop]
      exact dataField_withFields j (idxField cw) cd

/-- The decoder reads only the bits of the data that the opcode's row names (R83): a command decodes from its own
encoding, and the errors are the word's alone. -/
theorem decode_readMask (cw : CmdWord) (cd : CmdData) : decode cw (cd &&& readMask (opField cw)) = decode cw cd := by
  cases h : decode cw cd with
  | ok i =>
    obtain ⟨hword, hdata⟩ := decodedCommandHasEncodersWord cw cd i h
    rw [← hdata]
    exact hword ▸ decodeOfEncodeIsIdentity i
  | error e =>
    rcases decode_cases cw with ⟨e', he⟩ | ⟨j, -, -, hj⟩
    · rw [he, ← h, he]
    · rw [hj] at h
      cases h

/-- Settles O3. -/
theorem unreadDataBitsAreIgnored : Obligations.UnreadDataBitsAreIgnored := by
  intro cw cd cd' s h
  have same : decode cw cd = decode cw cd' := by rw [← decode_readMask, h, decode_readMask]
  rw [execute, same, execute]

/-! ### What each wrong encoding raises -/

theorem execute_of_decode_error {cw : CmdWord} {cd : CmdData} {e : DecodeError} (s : State)
    (h : decode cw cd = .error e) : execute cw cd s = .next (failed (decodeErrCode e) s) := by
  rw [execute, h]
  rfl

theorem execute_of_decode_ok {cw : CmdWord} {cd : CmdData} {i : Instr} (s : State)
    (h : decode cw cd = .ok i) : execute cw cd s = exec i s := by
  rw [execute, h]

theorem execSbox_of_illegal {idx : BitVec 4} (a : Byte) (s : State) (h : idx = 0 ∨ 9 ≤ idx.toNat) :
    exec (.sbox idx a) s = .next (failed .badIndex s) := by
  refine if_pos ?_
  rcases h with rfl | h
  · exact .inl (by decide)
  · exact .inr h

/-- Settles O4: no opcode of the map is in the four ranges. -/
theorem illegalOpcodesRaiseAndChangeNothing : Obligations.IllegalOpcodesRaiseAndChangeNothing := by
  intro op idx rsvd cd s range
  have legal : ∀ op ∈ opcodes,
      ¬((0x03 ≤ op.toNat ∧ op.toNat ≤ 0x07) ∨ (0x0D ≤ op.toNat ∧ op.toNat ≤ 0x0F) ∨
        (0x13 ≤ op.toNat ∧ op.toNat ≤ 0x1F) ∨ 0x23 ≤ op.toNat) := by decide
  have illegal : op ∉ opcodes := fun h => legal op h range
  exact ⟨illegal, execute_of_decode_error s (decode_illegalOp cd (by rwa [opField_commandWord]))⟩

/-- A word that has a legal opcode and a reserved bit set raises RSVD_FIELD (R86, R87). -/
theorem execute_of_reservedBitsSet {op : BitVec 8} {idx : BitVec 4} {rsvd : BitVec 20} (cd : CmdData) (s : State)
    (h : op ∈ opcodes) (hset : rsvd ≠ 0 ∨ (op ≠ 0x08 ∧ idx ≠ 0)) :
    execute (commandWord op idx rsvd) cd s = .next (failed .rsvdField s) := by
  refine execute_of_decode_error s (decode_rsvdField cd ?_ ?_)
  · rwa [opField_commandWord]
  · rwa [reservedBitsSet, opField_commandWord, idxField_commandWord, rsvdField_commandWord]

/-- Settles O5. -/
theorem nonzeroReservedFieldRaises : Obligations.NonzeroReservedFieldRaises :=
  fun _ _ _ cd s hop hrsvd => execute_of_reservedBitsSet cd s hop (.inl hrsvd)

/-- An `sbox` word with RSVD = 0 decodes, whatever its index (R81, R90). -/
theorem decode_sbox (idx : BitVec 4) (cd : CmdData) :
    decode (commandWord 0x08 idx 0) cd = .ok (.sbox idx (fieldA cd)) := by
  have op := opField_commandWord 0x08 idx 0
  have clear : ¬ reservedBitsSet (commandWord 0x08 idx 0) :=
    not_reservedBitsSet_iff.2 ⟨rsvdField_commandWord 0x08 idx 0, fun notSbox => absurd op notSbox⟩
  have row := decode_command cd (i := .sbox idx 0) op clear
  rwa [idxField_commandWord] at row

/-- Settles O6: IDX is a reserved field of every command but `sbox`, whose index is checked when it runs. -/
theorem indexFieldIsChecked : Obligations.IndexFieldIsChecked :=
  ⟨fun _ _ _ cd s hop hne hidx => execute_of_reservedBitsSet cd s hop (.inr ⟨hne, hidx⟩),
    fun idx cd s illegal =>
      (execute_of_decode_ok s (decode_sbox idx cd)).trans (execSbox_of_illegal (fieldA cd) s illegal)⟩

/-- Settles O7: six of the words are the encoder's, one has an illegal opcode and one a bit of RSVD set. -/
theorem knownWordsDecode : Obligations.KnownWordsDecode :=
  ⟨decodeOfEncodeIsIdentity .nop,
    decodeOfEncodeIsIdentity (.gfMul 0x57 0x83),
    decodeOfEncodeIsIdentity (.sbox 3 0x80),
    decodeOfEncodeIsIdentity (.blkSetkey 0x000102030405060708090A0B0C0D0E0F),
    decodeOfEncodeIsIdentity (.cfbSetkey 0x000102030405060708090A0B0C0D0E0F 0xF0F1F2F3F4F5F6F7),
    decodeOfEncodeIsIdentity (.cfbDec 0x59),
    decode_illegalOp 0 (by decide),
    decode_rsvdField 0 (by decide) (.inl (by decide))⟩

end Sys2Proof
end

section
/-! The assembly lines (30_encoding.md R91): operands that fit their widths stand side by side, as one number. -/

namespace Sys2Proof.Machine

/-! ### Numbers in their fields -/

/-- Two numbers that fit their fields, side by side, as one number. -/
theorem ofNat_shiftLeft_or {v w n x y : Nat} (hn : v + w ≤ n) (hx : x < 2 ^ v) (hy : y < 2 ^ w) :
    ((BitVec.ofNat v x).setWidth n <<< w) ||| (BitVec.ofNat w y).setWidth n = BitVec.ofNat n (x * 2 ^ w + y) := by
  have shifted : BitVec.ofNat n x <<< w = BitVec.ofNat n (x * 2 ^ w) := by
    apply BitVec.eq_of_toNat_eq
    simp [Nat.shiftLeft_eq]
  rw [BitVec.setWidth_ofNat_of_le_of_lt (by omega) hx, BitVec.setWidth_ofNat_of_le_of_lt (by omega) hy, shifted,
    ← BitVec.ofNat_or, ← Nat.shiftLeft_eq, Nat.shiftLeft_add_eq_or_of_lt hy]

/-- The word of a command without an index is its opcode. -/
theorem encode_of_indexField_zero {i : Instr} (h : i.indexField = 0) :
    encode i = { word := i.opcode.setWidth 32, data := i.dataField } := by
  simp [encode, h]

/-! ### Lines with one and with two operands -/

/-- A line whose operand, where it fits, gives this command. -/
theorem asm1_eq {w n : Nat} {f : BitVec w → Command} {c : Command} (h : n < 2 ^ w → f (BitVec.ofNat w n) = c) :
    asm1 w n f = if n < 2 ^ w then some c else none := by
  by_cases fit : n < 2 ^ w
  · simp [asm1, fits, fit, h fit]
  · simp [asm1, fits, fit]

theorem asm2_eq {v w m n : Nat} {f : BitVec v → BitVec w → Command} {c : Command}
    (h : m < 2 ^ v → n < 2 ^ w → f (BitVec.ofNat v m) (BitVec.ofNat w n) = c) :
    asm2 v m w n f = if m < 2 ^ v ∧ n < 2 ^ w then some c else none := by
  by_cases fit : m < 2 ^ v ∧ n < 2 ^ w
  · simp [asm2, fits, fit, h fit.1 fit.2]
  · rw [if_neg fit]
    simpa [asm2, fits] using fit

/-- A line of one operand, which is the lowest field of the data. -/
theorem asm1_lowest {w n : Nat} {f : BitVec w → Command} {word : CmdWord} (hw : w ≤ 192)
    (hf : ∀ x, f x = { word := word, data := x.setWidth 192 }) :
    asm1 w n f = if n < 2 ^ w then some { word := word, data := BitVec.ofNat 192 n } else none :=
  asm1_eq fun fit => (hf _).trans (congrArg (Command.mk word) (BitVec.setWidth_ofNat_of_le_of_lt hw fit))

/-- A line of two operands, which are the two lowest fields of the data, the second operand the upper one. -/
theorem asm2_secondUpper {v w m n : Nat} {f : BitVec v → BitVec w → Command} {word : CmdWord} (hw : w + v ≤ 192)
    (hf : ∀ x y, f x y = { word := word, data := (y.setWidth 192 <<< v) ||| x.setWidth 192 }) :
    asm2 v m w n f =
      if m < 2 ^ v ∧ n < 2 ^ w then some { word := word, data := BitVec.ofNat 192 (n * 2 ^ v + m) } else none :=
  asm2_eq fun hm hn => (hf _ _).trans (congrArg (Command.mk word) (ofNat_shiftLeft_or hw hn hm))

/-! ### The lines whose operands have places of their own -/

theorem assemble_sbox (i a : Nat) :
    assemble (.sbox i a) =
      if i < 2 ^ 4 ∧ a < 2 ^ 8 then some { word := BitVec.ofNat 32 (0x08 + i * 2 ^ 8), data := BitVec.ofNat 192 a }
      else none := by
  rw [assemble]
  refine asm2_eq fun hi ha => congrArg₂ Command.mk ?_ (BitVec.setWidth_ofNat_of_le_of_lt (by decide) ha)
  rw [Nat.add_comm]
  exact ofNat_shiftLeft_or (by decide) hi (by decide : 0x08 < 2 ^ 8)

theorem assemble_blkSetkey (k : Nat) :
    assemble (.blkSetkey k) =
      if k < 2 ^ 128 then some { word := 0x00000010, data := BitVec.ofNat 192 (k * 2 ^ 64) } else none := by
  rw [assemble]
  have overZero (hk : k < 2 ^ 128) :
      (BitVec.ofNat 128 k).setWidth 192 <<< 64 = BitVec.ofNat 192 (k * 2 ^ 64) := by
    simpa using ofNat_shiftLeft_or (n := 192) (w := 64) (y := 0) (by decide) hk (by decide)
  exact asm1_eq fun hk =>
    (encode_of_indexField_zero rfl).trans (congrArg (Command.mk 0x00000010) (overZero hk))

theorem assemble_cfbSetkey (k iv : Nat) :
    assemble (.cfbSetkey k iv) =
      if k < 2 ^ 128 ∧ iv < 2 ^ 64 then some { word := 0x00000020, data := BitVec.ofNat 192 (k * 2 ^ 64 + iv) }
      else none := by
  rw [assemble]
  exact asm2_eq fun hk hiv => (encode_of_indexField_zero rfl).trans
    (congrArg (Command.mk 0x00000020) (ofNat_shiftLeft_or (by decide) hk hiv))

/-- Settles O9: every line's word is the encoder's, and its data is its operands' numbers in their fields. -/
theorem assemblyLinesGiveTheirWords : Obligations.AssemblyLinesGiveTheirWords := by
  refine ⟨rfl, ?gfMul, ?gfAdd, assemble_sbox, ?sub, ?perm, ?mix, ?rt, assemble_blkSetkey, ?blkEnc, ?blkDec,
    assemble_cfbSetkey, ?cfbEnc, ?cfbDec, ?cmd⟩
  case gfMul | gfAdd =>
    intro a b
    rw [assemble]
    exact asm2_secondUpper (by decide) fun _ _ => encode_of_indexField_zero rfl
  case sub | perm | mix | rt | blkEnc | cfbEnc | cfbDec =>
    intro x
    rw [assemble]
    exact asm1_lowest (by decide) fun _ => encode_of_indexField_zero rfl
  case blkDec =>
    intro x
    rw [assemble]
    exact asm1_lowest (by decide) fun _ => rfl
  case cmd =>
    intro w d
    rw [assemble]
    exact asm2_eq fun _ _ => rfl

end Sys2Proof.Machine
end

section
/-! Words as vectors over GF(2), whose addition is XOR (40_gf_arith.md R112): linear maps, and sums over the bits of
a byte. -/

namespace Sys2Proof.Machine

/-! ### Maps that are linear over XOR -/

/-- Linear over GF(2). -/
def XorLinear {v w : Nat} (f : BitVec v → BitVec w) : Prop := ∀ x y, f (x ^^^ y) = f x ^^^ f y

namespace XorLinear

variable {u v w : Nat}

theorem map_zero {f : BitVec v → BitVec w} (hf : XorLinear f) : f 0#v = 0#w := by
  have h : f 0#v = f 0#v ^^^ f 0#v := (congrArg f BitVec.xor_self.symm).trans (hf 0#v 0#v)
  rw [h, BitVec.xor_self]

theorem map_ite {f : BitVec v → BitVec w} (hf : XorLinear f) (c : Bool) (x : BitVec v) :
    f (if c then x else 0#v) = if c then f x else 0#w := by
  cases c with
  | true => rfl
  | false => exact hf.map_zero

theorem id : XorLinear (fun x : BitVec w => x) := fun _ _ => rfl

theorem comp {g : BitVec v → BitVec w} {f : BitVec u → BitVec v} (hg : XorLinear g) (hf : XorLinear f) :
    XorLinear (fun x => g (f x)) := fun x y => (congrArg g (hf x y)).trans (hg _ _)

theorem xor {f g : BitVec v → BitVec w} (hf : XorLinear f) (hg : XorLinear g) :
    XorLinear (fun x => f x ^^^ g x) := fun x y => by
  simp only [hf x y, hg x y]
  ac_rfl

theorem iterate {f : BitVec w → BitVec w} (hf : XorLinear f) : ∀ n, XorLinear f^[n]
  | 0 => XorLinear.id
  | n + 1 => (iterate hf n).comp hf

theorem shiftLeft (n : Nat) : XorLinear (fun x : BitVec w => x <<< n) := fun _ _ => BitVec.shiftLeft_xor_distrib _ _ _

theorem setWidth : XorLinear (fun x : BitVec v => x.setWidth w) := fun _ _ => BitVec.setWidth_xor

/-- A constant gated by one bit of the argument. -/
theorem gate (i : Nat) (c : BitVec w) : XorLinear (fun x : BitVec v => if x.getLsbD i then c else 0#w) := fun x y => by
  simp only [BitVec.getLsbD_xor]
  cases x.getLsbD i <;> cases y.getLsbD i <;> simp

theorem foldl {α : Type} {f : BitVec w → α → BitVec w} (hf : ∀ i, XorLinear (f · i)) :
    ∀ l : List α, XorLinear (l.foldl f ·)
  | [] => XorLinear.id
  | i :: l => (foldl hf l).comp (hf i)

end XorLinear

/-! ### Sums over the bits of a byte -/

section BitSum

variable {v w : Nat}

/-- The XOR of the terms t i over the bits i < n that are set in b. -/
def bitSum (b : Byte) (t : Nat → BitVec w) : Nat → BitVec w
  | 0 => 0#w
  | n + 1 => bitSum b t n ^^^ if b.getLsbD n then t n else 0#w

theorem map_bitSum {f : BitVec v → BitVec w} (hf : XorLinear f) (b : Byte) (t : Nat → BitVec v) (n : Nat) :
    f (bitSum b t n) = bitSum b (fun i => f (t i)) n := by
  induction n with
  | zero => exact hf.map_zero
  | succ n ih => rw [bitSum, hf, hf.map_ite, ih, bitSum]

theorem bitSum_congr {b : Byte} {t u : Nat → BitVec w} {n : Nat} (h : ∀ i < n, t i = u i) :
    bitSum b t n = bitSum b u n := by
  induction n with
  | zero => rfl
  | succ n ih => rw [bitSum, ih fun i hi => h i (Nat.lt_succ_of_lt hi), h n n.lt_succ_self, bitSum]

theorem xorLinear_bitSum (b : Byte) {t : BitVec v → Nat → BitVec w} (ht : ∀ i, XorLinear (t · i)) (n : Nat) :
    XorLinear (fun x => bitSum b (t x) n) := by
  intro x y
  induction n with
  | zero => exact BitVec.xor_self.symm
  | succ n ih =>
    simp only [bitSum, ih, ht n x y]
    cases b.getLsbD n with
    | false => simp
    | true => simp only [if_true]; ac_rfl

/-- The bits of a byte below n, each in its place, are what is left of it below n. -/
theorem getLsbD_bitSum_twoPow (b : Byte) {n : Nat} (hn : n ≤ 8) (j : Nat) :
    (bitSum b (BitVec.twoPow 8) n).getLsbD j = (decide (j < n) && b.getLsbD j) := by
  induction n with
  | zero => simp [bitSum]
  | succ n ih =>
    rw [bitSum, BitVec.getLsbD_xor, ih (Nat.le_of_succ_le hn)]
    by_cases h : j = n
    · subst h
      cases b.getLsbD j <;> simp [Nat.lt_of_succ_le hn]
    · have below : j < n + 1 ↔ j < n := by omega
      cases b.getLsbD n <;> simp [BitVec.getLsbD_twoPow, below, Ne.symm h]

/-- A byte is the sum of its bits, each in its place. -/
theorem bitSum_twoPow (b : Byte) : bitSum b (BitVec.twoPow 8) 8 = b :=
  BitVec.eq_of_getLsbD_eq fun j hj => by
    rw [getLsbD_bitSum_twoPow b le_rfl, decide_eq_true hj, Bool.true_and]

/-- The same sum as a loop over the bit numbers. -/
theorem foldl_range_eq_bitSum (b : Byte) (t : Nat → BitVec w) (n : Nat) :
    (List.range n).foldl (fun p i => if b.getLsbD i then p ^^^ t i else p) 0#w = bitSum b t n := by
  induction n with
  | zero => rfl
  | succ n ih =>
    rw [List.range_succ, List.foldl_append, ih, bitSum]
    cases h : b.getLsbD n <;> simp [h]

end BitSum

end Sys2Proof.Machine
end

section
/-! The multiplier (40_gf_arith.md R110, R119): `gmul a` is the one map linear over XOR that commutes with multiplication
by x and takes 1 to a. Its laws follow from that, and its inverses from the order of x. -/

namespace Sys2Proof.Machine

/-! ### Multiplication by x -/

/-- Multiplication by x: one shift, reduced when x^8 appears (R110, R121). -/
def mulX (a : Byte) : Byte := (a <<< 1) ^^^ if a.getLsbD 7 then 0x1D#8 else 0#8

theorem xorLinear_mulX : XorLinear mulX := (XorLinear.shiftLeft 1).xor (XorLinear.gate 7 0x1D)

/-- A shifted byte in a wider word: the reduced byte and, when x^8 appears, one reducing polynomial. -/
theorem setWidth_shiftLeft_one {w : Nat} (a : Byte) :
    a.setWidth w <<< 1 = (mulX a).setWidth w ^^^ if a.getLsbD 7 then 0x11D#w else 0#w := by
  apply BitVec.eq_of_getLsbD_eq
  intro i hi
  have term : (0x11D#w)[i] = Nat.testBit 0x11D i := by
    rw [← BitVec.getLsbD_eq_getElem, BitVec.getLsbD_ofNat, decide_eq_true hi, Bool.true_and]
  match i with
  | 0 | 1 | 2 | 3 | 4 | 5 | 6 | 7 | 8 =>
    cases h : a[7] <;> simp [mulX, h, hi, term, Nat.testBit_eq_decide_div_mod_eq]
  | i + 9 =>
    have above : Nat.testBit 0x11D (i + 9) = false :=
      Nat.testBit_lt_two_pow (lt_of_lt_of_le (by decide) (Nat.pow_le_pow_right two_pos (Nat.le_add_left 9 i)))
    cases h : a[7] <;> simp [mulX, h, hi, term, above]

/-- One iteration of the multiplier takes the accumulator times x and adds a gated by the bit; bit 8 stays 0 (R110). -/
theorem gmulStep_setWidth (a p : Byte) (bit : Bool) :
    gmulStep a bit (p.setWidth 9) = (mulX p ^^^ if bit then a else 0#8).setWidth 9 := by
  have top : (p.setWidth 9 <<< 1).getLsbD 8 = p.getLsbD 7 := by simp
  have reduced : (if p.getLsbD 7 then p.setWidth 9 <<< 1 ^^^ poly else p.setWidth 9 <<< 1) = (mulX p).setWidth 9 := by
    rw [setWidth_shiftLeft_one]
    cases p.getLsbD 7 <;> simp [poly]
  simp only [gmulStep, top, reduced, BitVec.setWidth_xor]
  cases bit <;> simp

/-- Horner's rule: what the multiplier adds after n iterations. -/
theorem gmulLoop_setWidth (a b : Byte) (n : Nat) (p : Byte) :
    gmulLoop a b n (p.setWidth 9) = (mulX^[n] p ^^^ bitSum b (fun i => mulX^[i] a) n).setWidth 9 := by
  induction n generalizing p with
  | zero => exact congrArg _ BitVec.xor_zero.symm
  | succ n ih =>
    rw [gmulLoop, gmulStep_setWidth, ih, xorLinear_mulX.iterate n, (xorLinear_mulX.iterate n).map_ite, bitSum,
      Function.iterate_succ_apply]
    congr 1
    ac_rfl

/-- The product as the sum of a·x^i over the bits i of b (R111). -/
theorem gmul_eq_bitSum (a b : Byte) : gmul a b = bitSum b (fun i => mulX^[i] a) 8 := by
  have horner := gmulLoop_setWidth a b 8 0#8
  rw [(xorLinear_mulX.iterate 8).map_zero, BitVec.zero_xor] at horner
  exact (congrArg (BitVec.setWidth 8) horner).trans (BitVec.setWidth_setWidth_of_le _ (by decide))

/-! ### `gmul a` is the map over multiplication by x that takes 1 to a -/

theorem xorLinear_gmul_left (b : Byte) : XorLinear (gmul · b) := by
  simp only [gmul_eq_bitSum]
  exact xorLinear_bitSum b (fun i => xorLinear_mulX.iterate i) 8

theorem gmul_mulX_left (a b : Byte) : gmul (mulX a) b = mulX (gmul a b) := by
  rw [gmul_eq_bitSum, gmul_eq_bitSum, map_bitSum xorLinear_mulX]
  exact bitSum_congr fun i _ => (Function.Commute.refl mulX).iterate_left i a

theorem one_gmul (b : Byte) : gmul 1 b = b := by
  have powers : ∀ i < 8, mulX^[i] 1 = BitVec.twoPow 8 i := by decide
  rw [gmul_eq_bitSum, bitSum_congr powers, bitSum_twoPow]

theorem two_gmul (b : Byte) : gmul 2 b = mulX b :=
  (gmul_mulX_left 1 b).trans (congrArg mulX (one_gmul b))

/-- A map that is linear over XOR and commutes with multiplication by x is the multiplication by its value at 1. -/
theorem eq_gmul_of_commutes_mulX {f : Byte → Byte} (hf : XorLinear f) (hx : ∀ a, f (mulX a) = mulX (f a)) (b : Byte) :
    f b = gmul (f 1) b := by
  have powers (i : Nat) : f (mulX^[i] 1) = mulX^[i] (f 1) := Function.Semiconj.iterate_right hx i 1
  calc f b = f (bitSum b (fun i => mulX^[i] 1) 8) := by rw [← gmul_eq_bitSum, one_gmul]
    _ = bitSum b (fun i => mulX^[i] (f 1)) 8 := by simp only [map_bitSum hf, powers]
    _ = gmul (f 1) b := (gmul_eq_bitSum (f 1) b).symm

theorem gmul_comm (a b : Byte) : gmul a b = gmul b a := by
  have h := eq_gmul_of_commutes_mulX (xorLinear_gmul_left b) (gmul_mulX_left · b) a
  rwa [one_gmul] at h

theorem gmul_assoc (a b c : Byte) : gmul (gmul a b) c = gmul a (gmul b c) := by
  have h := eq_gmul_of_commutes_mulX ((xorLinear_gmul_left c).comp (xorLinear_gmul_left b))
    (fun a => by rw [gmul_mulX_left, gmul_mulX_left]) a
  rw [one_gmul] at h
  exact h.trans (gmul_comm (gmul b c) a)

theorem xorLinear_gmul (a : Byte) : XorLinear (gmul a) := by
  rw [show gmul a = (gmul · a) from funext (gmul_comm a)]
  exact xorLinear_gmul_left a

theorem gmul_zero (a : Byte) : gmul a 0 = 0 := (xorLinear_gmul a).map_zero

theorem zero_gmul (b : Byte) : gmul 0 b = 0 := (xorLinear_gmul_left b).map_zero

/-! ### Every byte but 0 is a power of x -/

theorem iterate_mulX (n : Nat) (b : Byte) : mulX^[n] b = gmul (mulX^[n] 1) b :=
  eq_gmul_of_commutes_mulX (xorLinear_mulX.iterate n) (fun a => (Function.Commute.refl mulX).iterate_left n a) b

theorem iterate_mulX_add {m n : Nat} {c d : Byte} (hc : mulX^[m] 1 = c) (hd : mulX^[n] 1 = d) :
    mulX^[m + n] 1 = gmul c d := by
  rw [Function.iterate_add_apply, hd, iterate_mulX, hc]

/-! The powers of x that decide its order, 255 = 3 · 5 · 17. -/

theorem iterate_mulX_15 : mulX^[15] 1 = 0x26 := by decide

theorem iterate_mulX_17 : mulX^[17] 1 = 0x98 := by
  have power8 : mulX^[8] 1 = 0x1D := by decide
  have power9 : mulX^[9] 1 = 0x3A := by decide
  exact (iterate_mulX_add power8 power9).trans (by decide)

theorem iterate_mulX_34 : mulX^[34] 1 = 0x4E := (iterate_mulX_add iterate_mulX_17 iterate_mulX_17).trans (by decide)

theorem iterate_mulX_51 : mulX^[51] 1 = 0x0A := (iterate_mulX_add iterate_mulX_34 iterate_mulX_17).trans (by decide)

theorem iterate_mulX_85 : mulX^[85] 1 = 0xD6 := (iterate_mulX_add iterate_mulX_34 iterate_mulX_51).trans (by decide)

theorem iterate_mulX_255 : mulX^[255] 1 = 1 := by
  have power170 : mulX^[170] 1 = 0xD7 := (iterate_mulX_add iterate_mulX_85 iterate_mulX_85).trans (by decide)
  exact (iterate_mulX_add power170 iterate_mulX_85).trans (by decide)

theorem eq_255_of_dvd {n : Nat} (h : n ∣ 255) (h15 : ¬ n ∣ 15) (h51 : ¬ n ∣ 51) (h85 : ¬ n ∣ 85) : n = 255 := by
  have divisors : Nat.divisors 255 = {1, 3, 5, 15, 17, 51, 85, 255} := by simp only [Nat.divisors_ofNat]
  have divisor := Nat.mem_divisors.2 ⟨h, by decide⟩
  simp only [divisors, Finset.mem_insert, Finset.mem_singleton] at divisor
  rcases divisor with rfl | rfl | rfl | rfl | rfl | rfl | rfl | rfl <;> omega

/-- x^8+x^4+x^3+x^2+1 is primitive: x has order 255, as x^255 is 1 and no x^(255/p) is. -/
theorem minimalPeriod_mulX : Function.minimalPeriod mulX 1 = 255 := by
  have excluded {m : Nat} {c : Byte} (hc : mulX^[m] 1 = c) (hne : c ≠ 1) : ¬ Function.minimalPeriod mulX 1 ∣ m :=
    fun h => hne (hc.symm.trans ((Function.isPeriodicPt_minimalPeriod mulX 1).trans_dvd h))
  have period : Function.IsPeriodicPt mulX 255 1 := iterate_mulX_255
  exact eq_255_of_dvd period.minimalPeriod_dvd (excluded iterate_mulX_15 (by decide))
    (excluded iterate_mulX_51 (by decide)) (excluded iterate_mulX_85 (by decide))

/-- From any power of x the remaining multiplications by x lead back to 1. -/
theorem iterate_mulX_complement {n : Nat} (hn : n < 255) : mulX^[255 - n] (mulX^[n] 1) = 1 := by
  rw [← Function.iterate_add_apply, Nat.sub_add_cancel hn.le, iterate_mulX_255]

theorem iterate_mulX_ne_zero {n : Nat} (hn : n < 255) : mulX^[n] 1 ≠ 0#8 := by
  intro h
  have back := iterate_mulX_complement hn
  rw [h, (xorLinear_mulX.iterate _).map_zero] at back
  exact absurd back (by decide)

/-- The powers of x below its order, 255 bytes, are all the bytes but 0. -/
theorem image_iterate_mulX : (Finset.range 255).image (fun n => mulX^[n] 1) = Finset.univ.erase 0#8 := by
  have distinct : Set.InjOn (fun n => mulX^[n] 1) (Finset.range 255) := by
    rw [Finset.coe_range, ← minimalPeriod_mulX]
    exact Function.iterate_injOn_Iio_minimalPeriod
  refine Finset.eq_of_subset_of_card_le (fun b hb => ?_) ?_
  · obtain ⟨n, hn, rfl⟩ := Finset.mem_image.1 hb
    exact Finset.mem_erase.2 ⟨iterate_mulX_ne_zero (Finset.mem_range.1 hn), Finset.mem_univ _⟩
  · rw [Finset.card_image_of_injOn distinct, Finset.card_erase_of_mem (Finset.mem_univ _), Finset.card_univ,
      ← FinEnum.card_eq_fintypeCard, FinEnum.card_bitVec, Finset.card_range]
    decide

theorem exists_iterate_mulX {a : Byte} (ha : a ≠ 0) : ∃ n < 255, mulX^[n] 1 = a := by
  have power := image_iterate_mulX ▸ Finset.mem_erase.2 ⟨ha, Finset.mem_univ a⟩
  obtain ⟨n, hn, h⟩ := Finset.mem_image.1 power
  exact ⟨n, Finset.mem_range.1 hn, h⟩

/-! ### Inverses -/

theorem exists_gmul_eq_one {a : Byte} (ha : a ≠ 0) : ∃ c, gmul c a = 1 := by
  obtain ⟨n, hn, rfl⟩ := exists_iterate_mulX ha
  exact ⟨mulX^[255 - n] 1, (iterate_mulX (255 - n) _).symm.trans (iterate_mulX_complement hn)⟩

theorem gmul_bijective {a : Byte} (ha : a ≠ 0) : Function.Bijective (gmul a) := by
  obtain ⟨c, hc⟩ := exists_gmul_eq_one ha
  refine Function.bijective_iff_has_inverse.2 ⟨gmul c, fun b => ?_, fun b => ?_⟩
  · rw [← gmul_assoc, hc, one_gmul]
  · rw [← gmul_assoc, gmul_comm a c, hc, one_gmul]

theorem eq_zero_or_eq_zero_of_gmul_eq_zero {a b : Byte} (h : gmul a b = 0) : a = 0 ∨ b = 0 :=
  or_iff_not_imp_left.2 fun ha => (gmul_bijective ha).injective (h.trans (gmul_zero a).symm)

/-- Settles O45: `gmul` is bilinear over XOR, and x is a generator of the bytes other than 0. -/
theorem gmulIsAFieldProduct : Obligations.GmulIsAFieldProduct :=
  ⟨gmul_zero, one_gmul, gmul_comm, xorLinear_gmul, gmul_assoc, fun _ => gmul_bijective,
    fun _ _ => eq_zero_or_eq_zero_of_gmul_eq_zero⟩

/-- Settles O46: 2 is x and 3 is x + 1. -/
theorem gmulByTwoAndThreeAreShifts : Obligations.GmulByTwoAndThreeAreShifts := fun a =>
  ⟨two_gmul a, (xorLinear_gmul_left a 2 1).trans (congrArg (gmul 2 a ^^^ ·) (one_gmul a))⟩

end Sys2Proof.Machine
end

section
/-! The product of polynomials modulo x^8+x^4+x^3+x^2+1 (40_gf_arith.md R111): one division at the end agrees with the
multiplier's reduction after every multiplication by x. -/

namespace Sys2Proof.Machine

open Sys2Proof.Spec

theorem polyProduct_eq_bitSum (a b : Byte) : polyProduct a b = bitSum b (fun i => a.setWidth 16 <<< i) 8 :=
  foldl_range_eq_bitSum b _ 8

theorem xorLinear_polyRemainder : XorLinear polyRemainder := by
  refine XorLinear.setWidth.comp (XorLinear.foldl (fun j => ?_) (List.range 8))
  have cancel (q : BitVec 16) : (if q.getLsbD (15 - j) then q ^^^ 0x11D#16 <<< (7 - j) else q) =
      q ^^^ if q.getLsbD (15 - j) then 0x11D#16 <<< (7 - j) else 0#16 := by
    cases q.getLsbD (15 - j) <;> simp
  simp only [cancel]
  exact XorLinear.id.xor (XorLinear.gate _ _)

/-- A polynomial of degree below 8 is its own remainder: none of the terms to cancel is there. -/
theorem polyRemainder_setWidth (a : Byte) : polyRemainder (a.setWidth 16) = a := by
  simp [polyRemainder, List.range_succ]

theorem polyRemainder_multiple : ∀ i < 8, polyRemainder (0x11D#16 <<< i) = 0#8 := by decide

/-- The remainder of a·x^i: each multiplication by x is reduced at once. -/
theorem polyRemainder_shiftLeft {i : Nat} (hi : i ≤ 8) (a : Byte) :
    polyRemainder (a.setWidth 16 <<< i) = mulX^[i] a := by
  induction i generalizing a with
  | zero => rw [BitVec.shiftLeft_zero, polyRemainder_setWidth, Function.iterate_zero_apply]
  | succ i ih =>
    have split : a.setWidth 16 <<< (i + 1) =
        (mulX a).setWidth 16 <<< i ^^^ if a.getLsbD 7 then 0x11D#16 <<< i else 0#16 := by
      rw [Nat.add_comm, BitVec.shiftLeft_add, setWidth_shiftLeft_one, BitVec.shiftLeft_xor_distrib]
      exact congrArg _ ((XorLinear.shiftLeft i).map_ite _ _)
    rw [split, xorLinear_polyRemainder, xorLinear_polyRemainder.map_ite, polyRemainder_multiple i hi, ite_self,
      BitVec.xor_zero, ih (Nat.le_of_succ_le hi), Function.iterate_succ_apply]

/-- Settles O44: taking the remainder is linear over XOR, and the remainder of each term a·x^i is the multiplier's. -/
theorem gmulIsThePolynomialProduct : Obligations.GmulIsThePolynomialProduct := by
  intro a b
  rw [gmul_eq_bitSum, polyProduct_eq_bitSum, map_bitSum xorLinear_polyRemainder]
  exact bitSum_congr fun i hi => (polyRemainder_shiftLeft hi.le a).symm

end Sys2Proof.Machine
end

section
/-! The commands `gf.mul` and `gf.add` (40_gf_arith.md R113, R114), from the command word to the registers. -/

namespace Sys2Proof

open Sys2Proof.Machine Sys2Proof.Spec

/-- A command word whose row has no index decodes to the row's command when IDX and RSVD are 0 (R86, R87, R90). -/
theorem execute_commandWord {i : Instr} (h : i.opcode ≠ 0x08) (idx : BitVec 4) (rsvd : BitVec 20) (cd : CmdData)
    (s : State) :
    execute (commandWord i.opcode idx rsvd) cd s =
      if idx = 0 ∧ rsvd = 0 then exec (i.withFields idx cd) s else .next (failed .rsvdField s) := by
  split_ifs with clear
  · obtain ⟨rfl, rfl⟩ := clear
    have notSet : ¬ reservedBitsSet (commandWord i.opcode 0 0) :=
      not_reservedBitsSet_iff.2 ⟨rsvdField_commandWord _ _ _, fun _ => idxField_commandWord _ _ _⟩
    rw [execute_of_decode_ok s (decode_command cd (opField_commandWord _ _ _) notSet), idxField_commandWord]
  · refine execute_of_reservedBitsSet cd s (mem_opcodes_iff.2 ⟨i, rfl⟩) ?_
    exact (not_and_or.1 clear).symm.imp_right fun hidx => ⟨h, hidx⟩

theorem fieldA_append (rest : BitVec 176) (b a : Byte) : fieldA (rest ++ b ++ a) = a :=
  BitVec.extractLsb'_append_eq_right

theorem fieldB_append (rest : BitVec 176) (b a : Byte) : fieldB (rest ++ b ++ a) = b :=
  (BitVec.extractLsb'_append_eq_of_le (by decide)).trans BitVec.extractLsb'_append_eq_right

/-- Settles O31: the laws are those of the multiplier, and the word names the row, whose operands the data holds. -/
theorem gfMulGivesTheProduct : Obligations.GfMulGivesTheProduct := by
  refine ⟨fun a b s => rfl, fun a b => ⟨gmul_zero a, zero_gmul b, one_gmul b, gmul_comm a b⟩, by decide,
    fun idx rsvd rest a b s => ?_⟩
  have row := execute_commandWord (i := .gfMul a b) (by simp [Instr.opcode]) idx rsvd (rest ++ b ++ a) s
  rwa [Instr.withFields, fieldA_append, fieldB_append] at row

/-- Settles O32: as for `gf.mul`, with the adder. -/
theorem gfAddGivesTheXor : Obligations.GfAddGivesTheXor := by
  refine ⟨fun a b s => rfl, fun idx rsvd rest a b s => ?_⟩
  have row := execute_commandWord (i := .gfAdd a b) (by simp [Instr.opcode]) idx rsvd (rest ++ b ++ a) s
  rwa [Instr.withFields, fieldA_append, fieldB_append] at row

end Sys2Proof
end

section
/-! Maps that are affine over XOR: linear up to a constant. They compose, and the round transform is one layer of them
after another (41_layers.md R139). -/

namespace Sys2Proof.Machine

/-- Affine over GF(2), without naming the constant or the linear part. -/
def XorAffine {v w : Nat} (f : BitVec v → BitVec w) : Prop :=
  ∀ x y z, f x ^^^ f y ^^^ f z = f (x ^^^ y ^^^ z)

section

variable {u v w : Nat}

theorem XorLinear.affine {f : BitVec v → BitVec w} (hf : XorLinear f) : XorAffine f := fun x y z => by
  rw [hf, hf]

namespace XorAffine

theorem comp {g : BitVec v → BitVec w} {f : BitVec u → BitVec v} (hg : XorAffine g) (hf : XorAffine f) :
    XorAffine (fun x => g (f x)) := fun x y z => (hg _ _ _).trans (congrArg g (hf x y z))

/-- The translation by a constant, which stands an odd number of times in each sum. -/
theorem xor_const (c : BitVec w) : XorAffine (· ^^^ c) := fun x y z => by
  calc x ^^^ c ^^^ (y ^^^ c) ^^^ (z ^^^ c) = x ^^^ y ^^^ z ^^^ c ^^^ c ^^^ c := by ac_rfl
    _ = x ^^^ y ^^^ z ^^^ c := xor_cancel_right _ _

/-- An affine map less its value at 0 is linear. -/
theorem linear {f : BitVec v → BitVec w} (hf : XorAffine f) : XorLinear (fun x => f x ^^^ f 0#v) := fun x y => by
  have value : f (x ^^^ y) = f x ^^^ f y ^^^ f 0#v := by rw [hf, BitVec.xor_zero]
  simp only [value]
  ac_rfl

end XorAffine

theorem xor_const_bijective (c : BitVec w) : Function.Bijective (· ^^^ c) :=
  (show Function.Involutive (· ^^^ c) from fun x => xor_cancel_right x c).bijective

end

theorem xorLinear_byteAt (j : Nat) : XorLinear (byteAt j) := fun _ _ => BitVec.extractLsb'_xor

/-- A map of blocks is affine when each byte of its value is. -/
theorem xorAffine_of_bytes {f : Block → Block} (h : ∀ j < 8, XorAffine (fun x => byteAt j (f x))) : XorAffine f :=
  fun x y z => block_ext fun j hj => by rw [xorLinear_byteAt, xorLinear_byteAt, h j hj]

end Sys2Proof.Machine
end

section
/-! The three layers and the round transform (41_layers.md R130 to R139): the bytes of each layer's value, that each is
affine over GF(2), and that each is a bijection. -/

namespace Sys2Proof.Machine

/-! ### One S-box -/

/-- The factor of an S-box, 0xC1 to 0xC8 for the legal indices, is not 0 (R130). -/
theorem sbox_factor_ne_zero : ∀ i : BitVec 4, sboxMulBase ^^^ i.setWidth 8 ≠ 0 := by decide

theorem sbox_bijective (i : BitVec 4) : Function.Bijective (sbox i) :=
  (xor_const_bijective sboxAdd).comp (gmul_bijective (sbox_factor_ne_zero i))

theorem sbox_zero (i : BitVec 4) : sbox i 0 = 0x63 := by
  rw [sbox, gmul_zero]
  rfl

theorem sbox_one (i : BitVec 4) : sbox i 1 = sboxMulBase ^^^ i.setWidth 8 ^^^ sboxAdd := by
  rw [sbox, gmul_comm, one_gmul]

theorem xorAffine_sbox (i : BitVec 4) : XorAffine (sbox i) :=
  (XorAffine.xor_const sboxAdd).comp (xorLinear_gmul _).affine

/-- Settles O47: an S-box is a multiplication by a byte other than 0 and a translation, and its value at 1 tells its
index. -/
theorem sboxesAreDistinctBijections : Obligations.SboxesAreDistinctBijections := by
  have factor_injective : ∀ i j : BitVec 4, sboxMulBase ^^^ i.setWidth 8 ^^^ sboxAdd =
      sboxMulBase ^^^ j.setWidth 8 ^^^ sboxAdd → i = j := by decide
  refine ⟨fun i _ _ => ⟨sbox_bijective i, sbox_zero i⟩, fun i j _ _ _ _ hij same => hij (factor_injective i j ?_)⟩
  rw [← sbox_one, ← sbox_one, same]

/-! ### The substitution layer -/

theorem byteAt_subl {j : Nat} (hj : j < 8) (x : Block) :
    byteAt j (subl x) = sbox (BitVec.ofNat 4 (j + 1)) (byteAt j x) := by
  match j, hj with
  | 0, _ | 1, _ | 2, _ | 3, _ | 4, _ | 5, _ | 6, _ | 7, _ => simp [subl]

theorem subl_bijective : Function.Bijective subl :=
  Finite.injective_iff_bijective.1 fun x y h => block_ext fun j hj =>
    (sbox_bijective (BitVec.ofNat 4 (j + 1))).injective (by rw [← byteAt_subl hj, h, byteAt_subl hj])

theorem xorAffine_subl : XorAffine subl := xorAffine_of_bytes fun j hj => by
  simp only [byteAt_subl hj]
  exact (xorAffine_sbox _).comp (xorLinear_byteAt j).affine

theorem subl_zero : subl 0 = 0x6363636363636363 := by decide

theorem subl_digits : subl 0x0123456789ABCDEF = 0xA25D01F7EE1C4D87 := by decide

/-! ### The permutation layer -/

theorem perml_pack (b0 b1 b2 b3 b4 b5 b6 b7 : Byte) :
    perml (pack b0 b1 b2 b3 b4 b5 b6 b7) = pack b5 b0 b3 b6 b1 b4 b7 b2 := by
  simp [perml, permTable]

theorem byteAt_perml {j : Nat} (hj : j < 8) (x : Block) : byteAt j (perml x) = byteAt permTable[j] x := by
  match j, hj with
  | 0, _ | 1, _ | 2, _ | 3, _ | 4, _ | 5, _ | 6, _ | 7, _ => simp [perml]

/-- The table holds at (3j+1) mod 8 the input byte j (R135). -/
theorem permTable_destination : ∀ j < 8, permTable[(3 * j + 1) % 8] = j := by decide

theorem perml_const (b : Byte) : perml (pack b b b b b b b b) = pack b b b b b b b b := perml_pack b b b b b b b b

theorem perml_perml_perml_perml (x : Block) : perml (perml (perml (perml x))) = x := by
  rw [← pack_byteAt x]
  simp only [perml_pack]

theorem perml_bijective : Function.Bijective perml :=
  Finite.injective_iff_bijective.1 (Function.LeftInverse.injective (g := fun y => perml (perml (perml y)))
    perml_perml_perml_perml)

theorem xorAffine_perml : XorAffine perml := xorAffine_of_bytes fun j hj => by
  simp only [byteAt_perml hj]
  exact (xorLinear_byteAt _).affine

/-! ### The mix layer -/

theorem byteAt_mixl {m : Nat} (hm : m < 4) (x : Block) :
    byteAt (2 * m) (mixl x) = mixFst (byteAt (2 * m) x) (byteAt (2 * m + 1) x) ∧
      byteAt (2 * m + 1) (mixl x) = mixSnd (byteAt (2 * m) x) (byteAt (2 * m + 1) x) := by
  match m, hm with
  | 0, _ | 1, _ | 2, _ | 3, _ => simp [mixl]

/-- Every byte of a block is the first or the second of one of the four pairs (R136). -/
theorem forall_byte_of_pairs {P : Nat → Prop} (h : ∀ m < 4, P (2 * m) ∧ P (2 * m + 1)) : ∀ j < 8, P j := by
  intro j hj
  obtain ⟨m, rfl | rfl⟩ := j.even_or_odd'
  · exact (h m (by omega)).1
  · exact (h m (by omega)).2

/-- The mix of one pair. -/
def mixPair (p : Byte × Byte) : Byte × Byte := (mixFst p.1 p.2, mixSnd p.1 p.2)

/-- Cramer's rule for the first byte, where 7 is the determinant 2·3 + 1·1 (R137). -/
theorem mixPair_cramer_fst (a b : Byte) : gmul 3 (mixFst a b) ^^^ mixSnd a b = gmul 7 a := by
  have determinant : gmul 7 a = gmul 3 (gmul 2 a) ^^^ a := by
    calc gmul (gmul 3 2 ^^^ 1) a = gmul (gmul 3 2) a ^^^ gmul 1 a := xorLinear_gmul_left a (gmul 3 2) 1
      _ = gmul 3 (gmul 2 a) ^^^ a := by rw [gmul_assoc, one_gmul]
  calc gmul 3 (gmul 2 a ^^^ b) ^^^ (a ^^^ gmul 3 b)
      = gmul 3 (gmul 2 a) ^^^ a ^^^ gmul 3 b ^^^ gmul 3 b := by rw [xorLinear_gmul]; ac_rfl
    _ = gmul 7 a := by rw [xor_cancel_right, determinant]

/-- The first byte of a pair is had from the mixed pair by Cramer's rule, and the second from the first. -/
theorem mixPair_bijective : Function.Bijective mixPair := by
  refine Finite.injective_iff_bijective.1 fun ⟨a, b⟩ ⟨a', b'⟩ h => ?_
  obtain ⟨hfst, hsnd⟩ : mixFst a b = mixFst a' b' ∧ mixSnd a b = mixSnd a' b' := Prod.mk.inj h
  obtain rfl : a = a' := (gmul_bijective (a := 7) (by decide)).injective
    (by rw [← mixPair_cramer_fst a b, hfst, hsnd, mixPair_cramer_fst])
  rw [(BitVec.xor_right_inj _).1 hfst]

theorem mixl_bijective : Function.Bijective mixl := by
  refine Finite.injective_iff_bijective.1 fun x y h => block_ext (forall_byte_of_pairs fun m hm => ?_)
  obtain ⟨xfst, xsnd⟩ := byteAt_mixl hm x
  obtain ⟨yfst, ysnd⟩ := byteAt_mixl hm y
  have mixed : mixPair (byteAt (2 * m) x, byteAt (2 * m + 1) x) = mixPair (byteAt (2 * m) y, byteAt (2 * m + 1) y) :=
    Prod.ext (by rw [mixPair, mixPair, ← xfst, ← yfst, h]) (by rw [mixPair, mixPair, ← xsnd, ← ysnd, h])
  exact Prod.mk.inj (mixPair_bijective.injective mixed)

theorem xorAffine_mixl : XorAffine mixl := xorAffine_of_bytes (forall_byte_of_pairs fun m hm => by
  simp only [(byteAt_mixl hm _).1, (byteAt_mixl hm _).2]
  have fst := xorLinear_byteAt (2 * m)
  have snd := xorLinear_byteAt (2 * m + 1)
  exact ⟨(((xorLinear_gmul mixC0).comp fst).xor snd).affine, (fst.xor ((xorLinear_gmul mixC1).comp snd)).affine⟩)

/-- Settles O48: the mix layer is the mix of one pair on each of the four. -/
theorem mixIsInvertible : Obligations.MixIsInvertible :=
  ⟨by decide, mixPair_bijective, mixl_bijective⟩

/-! ### The round transform -/

theorem rt_bijective : Function.Bijective rt := mixl_bijective.comp (perml_bijective.comp subl_bijective)

theorem xorAffine_rt : XorAffine rt := xorAffine_mixl.comp (xorAffine_perml.comp xorAffine_subl)

/-! Its value on the blocks of the examples (R144), through the values of the substitution layer. -/

theorem rt_zero : rt 0 = 0xA5C6A5C6A5C6A5C6 := by
  rw [rt, subl_zero]
  decide

theorem rt_ones : rt 0xFFFFFFFFFFFFFFFF = 0xDF443CEFAFEF07EF := by
  have substituted : subl 0xFFFFFFFFFFFFFFFF = 0xCFD32CEB1408F79B := by decide
  rw [rt, substituted]
  decide

theorem rt_digits : rt 0x0123456789ABCDEF = 0x9AE7BE2054721284 := by
  rw [rt, subl_digits]
  decide

/-- Settles O49: the round transform is composed of affine bijections, and its linear part is what is left of it without
its value at 0. -/
theorem roundTransformIsAnAffineBijection : Obligations.RoundTransformIsAnAffineBijection :=
  ⟨xorAffine_rt,
    ⟨fun x => rt x ^^^ rt 0, xorAffine_rt.linear, (xor_const_bijective (rt 0)).comp rt_bijective,
      fun x => (xor_cancel_right (rt x) (rt 0)).symm⟩,
    rt_zero, rt_bijective⟩

end Sys2Proof.Machine
end

section
/-! The commands `sbox`, `sub`, `perm`, `mix` and `rt` (41_layers.md R140 to R144), from the command word to the
registers. -/

namespace Sys2Proof

open Sys2Proof.Machine Sys2Proof.Spec

section

variable (x : Block) (s : State)

theorem exec_sub : exec (.sub x) s = .next (completed (subl x) s) := rfl
theorem exec_perm : exec (.perm x) s = .next (completed (perml x) s) := rfl
theorem exec_mix : exec (.mix x) s = .next (completed (mixl x) s) := rfl
theorem exec_rt : exec (.rt x) s = .next (completed (rt x) s) := rfl

end

theorem exec_sbox_of_legal {i : BitVec 4} (h : 1 ≤ i.toNat ∧ i.toNat ≤ 8) (a : Byte) (s : State) :
    exec (.sbox i a) s = .next (completed (zextByte (Machine.sbox i a)) s) :=
  if_neg (by omega)

theorem fieldA_append_rest (rest : BitVec 184) (a : Byte) : fieldA (rest ++ a) = a :=
  BitVec.extractLsb'_append_eq_right

theorem fieldX_append (rest : BitVec 128) (x : Block) : fieldX (rest ++ x) = x :=
  BitVec.extractLsb'_append_eq_right

/-- The word of a row whose one operand is the block X, over data that holds the block. -/
theorem execute_commandWord_block {c : Block → Instr} {op : BitVec 8} (hop : ∀ x, (c x).opcode = op)
    (hne : op ≠ 0x08) (reads : ∀ x idx cd, (c x).withFields idx cd = c (fieldX cd)) (idx : BitVec 4) (rsvd : BitVec 20)
    (rest : BitVec 128) (x : Block) (s : State) :
    execute (commandWord op idx rsvd) (rest ++ x) s =
      if idx = 0 ∧ rsvd = 0 then exec (c x) s else .next (failed .rsvdField s) := by
  have row := execute_commandWord (hop x ▸ hne) idx rsvd (rest ++ x) s
  rwa [hop, reads, fieldX_append] at row

/-- Settles O33: the index is checked when the command runs, and RSVD when it is decoded. -/
theorem sboxLooksUpItsByte : Obligations.SboxLooksUpItsByte := by
  refine ⟨fun i a s => ?formula, fun i s low high => ?zero, fun s => ?example3, fun i rsvd rest a s => ?word⟩
  case formula =>
    split_ifs with legal
    · exact exec_sbox_of_legal legal a s
    · exact execSbox_of_illegal a s (by bv_omega)
  case zero => rw [exec_sbox_of_legal ⟨low, high⟩, sbox_zero]; rfl
  case example3 =>
    have value : zextByte (Machine.sbox 3 0x80) = 0x6A := by decide
    rw [exec_sbox_of_legal (by decide), value]
  case word =>
    split_ifs with clear
    · rw [clear, execute_of_decode_ok s (decode_sbox i _), fieldA_append_rest]
    · exact execute_of_reservedBitsSet _ s (by decide) (.inl clear)

/-- Settles O34: the index of the byte's S-box has the same value in the byte that the formula adds it to. -/
theorem subAppliesOneSboxPerByte : Obligations.SubAppliesOneSboxPerByte := by
  refine ⟨fun x s => ⟨subl x, exec_sub x s, fun j hj => ?bytes⟩, fun s => ⟨?zero, ?digits⟩,
    execute_commandWord_block (c := .sub) (fun _ => rfl) (by decide) fun _ _ _ => rfl⟩
  case bytes =>
    have index : (BitVec.ofNat 4 (j + 1)).setWidth 8 = BitVec.ofNat 8 (j + 1) := by bv_omega
    rw [byteAt_subl hj, Machine.sbox, index]
    rfl
  case zero => rw [exec_sub, subl_zero]
  case digits => rw [exec_sub, subl_digits]

/-- Settles O35, from the table of the layer and the order of its permutation. -/
theorem permMovesBytes : Obligations.PermMovesBytes := by
  refine ⟨fun x s => ⟨perml x, exec_perm x s, fun j hj => ?bytes⟩, perml_perml_perml_perml, perml_const,
    fun s => ?digits, execute_commandWord_block (c := .perm) (fun _ => rfl) (by decide) fun _ _ _ => rfl⟩
  case bytes => rw [byteAt_perml (Nat.mod_lt _ (by decide)), permTable_destination j hj]
  case digits =>
    have value : perml 0x0123456789ABCDEF = 0xAB0167CD2389EF45 := by decide
    rw [exec_perm, value]

/-- Settles O36, pair by pair. -/
theorem mixTransformsBytePairs : Obligations.MixTransformsBytePairs := by
  refine ⟨fun x s => ⟨mixl x, exec_mix x s, fun m hm => byteAt_mixl hm x⟩, fun s => ⟨?zero, ?ones, ?digits⟩,
    execute_commandWord_block (c := .mix) (fun _ => rfl) (by decide) fun _ _ _ => rfl⟩
  case zero =>
    have value : mixl 0 = 0 := by decide
    rw [exec_mix, value]
  case ones =>
    have value : mixl 0xFFFFFFFFFFFFFFFF = 0x1CE31CE31CE31CE3 := by decide
    rw [exec_mix, value]
  case digits =>
    have value : mixl 0x0123456789ABCDEF = 0x2164EDECA46968E1 := by decide
    rw [exec_mix, value]

/-- Settles O37: the second and the third command overwrite what the one before left, and nothing else has changed. -/
theorem rtIsSubThenPermThenMix : Obligations.RtIsSubThenPermThenMix := by
  refine ⟨fun x s t u v hsub hperm hmix => ?composed, fun x s => ⟨rt x, exec_rt x s⟩,
    fun s => ⟨?zero, ?ones, ?digits⟩, execute_commandWord_block (c := .rt) (fun _ => rfl) (by decide) fun _ _ _ => rfl⟩
  case composed =>
    cases hsub
    cases hperm
    cases hmix
    rfl
  case zero => rw [exec_rt, rt_zero]
  case ones => rw [exec_rt, rt_ones]
  case digits => rw [exec_rt, rt_digits]

end Sys2Proof
end

section
/-! The two loops of the block cipher, round by round: the key schedule (42_block_cipher.md R160 to R163) and block
encryption (R165, R166). The model's loops go on from their first round; these lemmas add a round at the end. -/

namespace Sys2Proof.Machine

open Sys2Proof.Spec

/-! ### The key schedule -/

theorem ksRounds_succ (n : Nat) (r : BitVec 5) (w : KsWork) :
    ksRounds (n + 1) r w = ksRound (r + BitVec.ofNat 5 n) (ksRounds n r w) := by
  induction n generalizing r w with
  | zero => simp [ksRounds]
  | succ n ih =>
    have number : r + 1 + BitVec.ofNat 5 n = r + BitVec.ofNat 5 (n + 1) := by rw [BitVec.ofNat_add]; ac_rfl
    rw [ksRounds, ih, number, ← ksRounds]

/-- The working registers and the keys made after n rounds of the key schedule of k. -/
def keyWork (k : Key) (n : Nat) : KsWork := ksRounds n 1 (ksInit k)

theorem keyWork_succ (k : Key) (n : Nat) : keyWork k (n + 1) = ksRound (BitVec.ofNat 5 (n + 1)) (keyWork k n) := by
  have number : 1 + BitVec.ofNat 5 n = BitVec.ofNat 5 (n + 1) := by rw [n.add_comm, BitVec.ofNat_add]; rfl
  rw [keyWork, ksRounds_succ, number, ← keyWork]

theorem keyWork_made_length (k : Key) (n : Nat) : (keyWork k n).made.length = n :=
  (ksRounds_made_length n 1 (ksInit k)).trans n.zero_add

/-- A round adds its key after those that the rounds before it made. -/
theorem keyWork_made_append (k : Key) {m n : Nat} (h : m ≤ n) :
    ∃ later, (keyWork k n).made = (keyWork k m).made ++ later := by
  induction n, h using Nat.le_induction with
  | base => exact ⟨[], (List.append_nil _).symm⟩
  | succ n _ ih =>
    obtain ⟨later, made⟩ := ih
    exact ⟨later ++ [(keyWork k (n + 1)).wu], by rw [keyWork_succ, ksRound, made, List.append_assoc]⟩

/-- The first n rounds make the first n round keys. -/
theorem keySchedule_take (k : Key) {n : Nat} (h : n ≤ 27) : (keySchedule k).toList.take n = (keyWork k n).made := by
  obtain ⟨later, made⟩ := keyWork_made_append k h
  calc (keySchedule k).toList.take n = (keyWork k 27).made.take n := by rw [keySchedule_toList]; rfl
    _ = (keyWork k n).made := by rw [made, List.take_left' (keyWork_made_length k n)]

/-- RK[n+1] is the transformed upper half of the state that round n leaves, rotated (R160). -/
theorem keySchedule_getElem? (k : Key) {n : Nat} (h : n < 27) :
    (keySchedule k).toList[n]? = some (rt (rotr128 (keyWork k n).wu (keyWork k n).wl).1) := by
  have last := List.getElem?_concat_length (l := (keyWork k n).made)
    (a := rt (rotr128 (keyWork k n).wu (keyWork k n).wl).1)
  rw [keyWork_made_length] at last
  rw [← List.getElem?_take_of_lt n.lt_succ_self, keySchedule_take k h, keyWork_succ]
  exact last

/-- The two working registers as the one 128-bit state of R160. -/
def keyWord (k : Key) (n : Nat) : BitVec 128 := (keyWork k n).wu ++ (keyWork k n).wl

theorem keyWord_rotateRight (k : Key) (n : Nat) :
    (keyWord k n).rotateRight 29 =
      (rotr128 (keyWork k n).wu (keyWork k n).wl).1 ++ (rotr128 (keyWork k n).wu (keyWork k n).wl).2 :=
  (rotr128_append _ _).symm

theorem byteAt_extractLsb' {n j : Nat} (x : BitVec n) (o : Nat) (hj : j < 8) :
    byteAt j (x.extractLsb' o 64) = x.extractLsb' (o + (56 - 8 * j)) 8 := by
  ext i hi
  rw [byteAt, BitVec.getElem_extractLsb', BitVec.getLsbD_extractLsb', BitVec.getElem_extractLsb',
    decide_eq_true (by omega), Bool.true_and, Nat.add_assoc]

theorem byteAt_keyUpper (k : Key) {j : Nat} (hj : j < 8) : byteAt j (keyUpper k) = keyByte j k := by
  have place : 64 + (56 - 8 * j) = 120 - 8 * j := by omega
  rw [keyUpper, byteAt_extractLsb' k 64 hj, place, keyByte]

theorem byteAt_keyLower (k : Key) {j : Nat} (hj : j < 8) : byteAt j (keyLower k) = keyByte (8 + j) k := by
  have place : 0 + (56 - 8 * j) = 120 - 8 * (8 + j) := by omega
  rw [keyLower, byteAt_extractLsb' k 0 hj, place, keyByte]

/-- The key schedule starts from the key bytes, big-endian (R160). -/
theorem keyWord_zero (k : Key) :
    keyWord k 0 =
      pack (keyByte 0 k) (keyByte 1 k) (keyByte 2 k) (keyByte 3 k) (keyByte 4 k) (keyByte 5 k) (keyByte 6 k)
        (keyByte 7 k) ++
      pack (keyByte 8 k) (keyByte 9 k) (keyByte 10 k) (keyByte 11 k) (keyByte 12 k) (keyByte 13 k) (keyByte 14 k)
        (keyByte 15 k) := by
  calc keyWord k 0 = keyUpper k ++ keyLower k := rfl
    _ = _ := by
      rw [← pack_byteAt (keyUpper k), ← pack_byteAt (keyLower k)]
      simp only [byteAt_keyUpper, byteAt_keyLower, Nat.reduceLT, Nat.reduceAdd]

/-- A round number, in the lowest byte of the 128-bit state. -/
theorem ofNat_round : ∀ r ≤ 27, BitVec.ofNat 128 r = 0#64 ++ (BitVec.ofNat 5 r).setWidth 64 := by decide

theorem keyWord_succ (k : Key) {n : Nat} (h : n < 27) :
    keyWord k (n + 1) =
      (rt (rotr128 (keyWork k n).wu (keyWork k n).wl).1 ++ (rotr128 (keyWork k n).wu (keyWork k n).wl).2) ^^^
        BitVec.ofNat 128 (n + 1) := by
  rw [ofNat_round (n + 1) h, BitVec.xor_append, BitVec.xor_zero, keyWord, keyWork_succ]
  rfl

/-- Settles O51: the 128-bit state is the two working registers. -/
theorem keyScheduleFollowsItsRounds : Obligations.KeyScheduleFollowsItsRounds := by
  intro k
  refine ⟨keyWord k, keyWord_zero k, fun r first last => ?_⟩
  obtain ⟨n, rfl⟩ := Nat.exists_eq_add_of_le' first
  rw [Nat.add_sub_cancel, keyWord_rotateRight, BitVec.extractLsb'_append_eq_left, BitVec.extractLsb'_append_eq_right]
  exact ⟨keySchedule_getElem? k last, keyWord_succ k last⟩

/-! ### Block encryption -/

/-- The block after n rounds of encryption. -/
def encryptedFor (rk : Vector Block 27) (x : Block) (n : Nat) : Block := (rk.toList.take n).foldl encRound x

theorem encryptedFor_succ (rk : Vector Block 27) (x : Block) {n : Nat} (h : n < 27) :
    encryptedFor rk x (n + 1) = encRound (encryptedFor rk x n) rk[n] := by
  have key : rk.toList.take (n + 1) = rk.toList.take n ++ [rk[n]] := by
    rw [List.take_succ_eq_append_getElem (by rwa [Vector.length_toList]), Vector.getElem_toList]
  rw [encryptedFor, key, List.foldl_append]
  rfl

theorem encryptedFor_all (rk : Vector Block 27) (x : Block) : encryptedFor rk x 27 = encrypt rk x := by
  rw [encryptedFor, List.take_of_length_le rk.length_toList.le, encrypt]

/-- Settles O52. -/
theorem encryptFollowsItsRounds : Obligations.EncryptFollowsItsRounds := fun rk x =>
  ⟨encryptedFor rk x, rfl, fun _ h => encryptedFor_succ rk x h, (encryptedFor_all rk x).symm⟩

end Sys2Proof.Machine
end

section
/-! The reference tables of the key schedule and of block encryption (42_block_cipher.md R164, R170): each row is one
round, and the row after round 27 holds what the command commits. -/

namespace Sys2Proof.Machine

theorem ticks_succ (i : Instr) (s : State) (n : Nat) (q : Sequencer) :
    Sequencer.ticks i s (n + 1) q = (Sequencer.ticks i s n q).tick i s :=
  ticks_add i s n 1 q

/-- RCNT goes on to the next round below round 27. -/
theorem roundCounter_succ : ∀ n < 26,
    BitVec.ofNat 5 (n + 1) + 1 = BitVec.ofNat 5 (n + 2) ∧ (BitVec.ofNat 5 (n + 1) + 1).toNat ≤ rounds := by decide

/-! ### The key schedule -/

section KeySchedule

variable (i : Instr) (s : State) (k : Key)

/-- KS_ROUND with RCNT = n + 1, after n rows. -/
theorem ticks_ksRound {n : Nat} (h : n < 27) :
    Sequencer.ticks i s n (.ksRound (ksInit k) 1) = .ksRound (keyWork k n) (BitVec.ofNat 5 (n + 1)) := by
  induction n with
  | zero => rfl
  | succ n ih =>
    obtain ⟨next, goesOn⟩ := roundCounter_succ n (by omega)
    rw [ticks_succ, ih (by omega), Sequencer.tick, if_pos goesOn, next, keyWork_succ]

/-- COMPLETE, after 27 rows. -/
theorem ticks_ksRound_all :
    Sequencer.ticks i s 27 (.ksRound (ksInit k) 1) = .complete (.keys (keySchedule k).toList) := by
  have last : ¬ (BitVec.ofNat 5 27 + 1).toNat ≤ rounds := by decide
  rw [ticks_succ, ticks_ksRound i s k (by omega), Sequencer.tick, if_neg last, ← keyWork_succ, keySchedule_toList]
  rfl

/-- The list of a table's entries makes the table again. -/
theorem vector_mk_toList {α : Type} {n : Nat} (v : Vector α n) (h : v.toList.toArray.size = n) :
    (⟨v.toList.toArray, h⟩ : Vector α n) = v :=
  Vector.toArray_inj.1 (Array.toArray_toList)

theorem commit_blkSetkey :
    Pending.commit (.blkSetkey k) (.keys (keySchedule k).toList) s =
      some ((s.installKeys (keySchedule k)).complete 0) := by
  rw [Pending.commit, dif_pos (keySchedule k).length_toList, vector_mk_toList]

theorem commit_cfbSetkey (iv : Block) :
    Pending.commit (.cfbSetkey k iv) (.keys (keySchedule k).toList) s =
      some ((s.beginStream (keySchedule k) (unpack iv)).complete 0) := by
  rw [Pending.commit, dif_pos (keySchedule k).length_toList, vector_mk_toList]

end KeySchedule

/-- Settles O54: both set-up commands start in the first round of the key schedule. -/
theorem keyScheduleMachineReachesTheCommand : Obligations.KeyScheduleMachineReachesTheCommand := by
  intro k i s setup
  have start : Sequencer.start i s = .ksRound (ksInit k) 1 := by
    rcases setup with rfl | ⟨iv, rfl⟩ <;> rfl
  rw [start]
  refine ⟨fun n h => ⟨keyWork k n, ticks_ksRound i s k h, (keySchedule_take k h.le).symm⟩, ticks_ksRound_all i s k, ?_⟩
  rcases setup with rfl | ⟨iv, rfl⟩
  · exact ⟨_, commit_blkSetkey s k, rfl⟩
  · exact ⟨_, commit_cfbSetkey s k iv, rfl⟩

/-! ### Block encryption -/

section Encryption

variable {s : State} {rk : Vector Block 27}

/-- The round key that RCNT = n + 1 names (10_state.md R21). -/
theorem State.roundKey_ofNat (hrk : s.rk = some rk) {n : Nat} (h : n < 27) :
    s.roundKey (BitVec.ofNat 5 (n + 1)) = some rk[n] := by
  have number : (BitVec.ofNat 5 (n + 1)).toNat = n + 1 := Nat.mod_eq_of_lt (by omega)
  have notZero : BitVec.ofNat 5 (n + 1) ≠ 0#5 := fun zero => by simp [zero] at number
  simp [State.roundKey, hrk, notZero, number, h]

variable (i : Instr) (x : Block)

/-- ENC_ROUND with RCNT = n + 1, after n rows. -/
theorem ticks_encRound (hrk : s.rk = some rk) {n : Nat} (h : n < 27) :
    Sequencer.ticks i s n (.encRound x 1) = .encRound (encryptedFor rk x n) (BitVec.ofNat 5 (n + 1)) := by
  induction n with
  | zero => rfl
  | succ n ih =>
    obtain ⟨next, goesOn⟩ := roundCounter_succ n (by omega)
    have below : n < 27 := by omega
    rw [ticks_succ, ih below, Sequencer.tick, State.roundKey_ofNat hrk below, encryptedFor_succ rk x below, ← next]
    exact if_pos goesOn

/-- The row that follows round 27, after 27 rows. -/
theorem ticks_encRound_all (hrk : s.rk = some rk) :
    Sequencer.ticks i s 27 (.encRound x 1) = Sequencer.afterRounds i (encrypt rk x) := by
  have last : ¬ (BitVec.ofNat 5 27 + 1).toNat ≤ rounds := by decide
  have below : 26 < 27 := by decide
  rw [ticks_succ, ticks_encRound i x hrk below, Sequencer.tick, State.roundKey_ofNat hrk below, ← encryptedFor_all,
    encryptedFor_succ rk x below]
  exact if_neg last

theorem exec_blkEnc_of_rk (hrk : s.rk = some rk) : exec (.blkEnc x) s = .next (s.complete (encrypt rk x)) := by
  have keyed : s.keyed = true := by rw [State.keyed_eq_rk_isSome, hrk, Option.isSome_some]
  rcases execBlkEnc_next x s with ⟨unkeyed, -⟩ | ⟨rk', -, hrk', encrypts⟩
  · simp [keyed] at unkeyed
  · obtain rfl : rk = rk' := Option.some.inj (hrk.symm.trans hrk')
    exact encrypts

end Encryption

/-- Settles O55: ENC_ROUND starts from the operand. -/
theorem blockMachineReachesTheCommand : Obligations.BlockMachineReachesTheCommand := by
  intro x s rk keyed hrk
  have start : Sequencer.start (.blkEnc x) s = .encRound x 1 := if_pos keyed
  rw [start]
  exact ⟨fun n h => ⟨encryptedFor rk x n, ticks_encRound _ x hrk h⟩, ticks_encRound_all _ x hrk,
    s.complete (encrypt rk x), rfl, exec_blkEnc_of_rk x hrk⟩

end Sys2Proof.Machine
end

section
/-! The commands `blk.setkey`, `blk.enc` and `blk.dec` (42_block_cipher.md R167 to R169), from the command word to the
registers. -/

namespace Sys2Proof

open Sys2Proof.Machine Sys2Proof.Spec

theorem fieldK_append (k : Key) (rest : BitVec 64) : fieldK (k ++ rest) = k :=
  BitVec.extractLsb'_append_eq_left

/-! The published example: the zero key, and the zero block under it (R167, R168). -/

theorem keySchedule_zero :
    (keySchedule 0)[0] = 0xA5C6A5C6A5C6A5C6 ∧ (keySchedule 0)[26] = 0xE518024751556ECD := by decide +kernel

theorem encrypt_keySchedule_zero : encrypt (keySchedule 0) 0 = 0x59654980FB7DE46B := by decide +kernel

/-- Settles O38: what `blk.setkey` leaves in the tables and flags is read off the state that it leaves. -/
theorem blkSetkeyInstallsTheSchedule : Obligations.BlkSetkeyInstallsTheSchedule := by
  refine ⟨fun k s => ⟨(s.installKeys (keySchedule k)).complete 0, rfl, rfl, rfl, rfl, rfl, rfl, rfl⟩, keySchedule_zero,
    fun idx rsvd k rest s => ?_⟩
  have row := execute_commandWord (i := .blkSetkey k) (by simp [Instr.opcode]) idx rsvd (k ++ rest) s
  rwa [Instr.withFields, fieldK_append] at row

theorem exec_blkEnc_of_unkeyed (x : Block) {s : State} (h : s.keyed = false) :
    exec (.blkEnc x) s = .next (failed .noKey s) := by
  rw [exec, execBlkEnc, State.cipher_of_keyed_false h]
  rfl

/-- Settles O39: a written table is all that `blk.enc` needs, and `blk.setkey` of the example writes it. -/
theorem blkEncEncryptsOneBlock : Obligations.BlkEncEncryptsOneBlock := by
  refine ⟨fun x s => exec_blkEnc_of_unkeyed x, fun x s rk _ hrk => exec_blkEnc_of_rk x hrk, fun s t setup => ?example0,
    execute_commandWord_block (c := .blkEnc) (fun _ => rfl) (by decide) fun _ _ _ => rfl⟩
  case example0 =>
    have hrk : t.rk = some (keySchedule 0) := by
      cases setup
      rfl
    rw [exec_blkEnc_of_rk 0 hrk, encrypt_keySchedule_zero]
    rfl

/-- Settles O40: `blk.dec` reads no operand, so that the word says all. -/
theorem blkDecAlwaysFails : Obligations.BlkDecAlwaysFails :=
  ⟨fun _ => rfl, execute_commandWord (i := .blkDec) (by simp [Instr.opcode])⟩

end Sys2Proof
end

section
/-! What an input difference becomes under block encryption (42_block_cipher.md R172). The linear part of the round
transform carries it through a round, whatever the block and the round key; and that linear part commutes with
multiplication of every byte by x, so that the eight differences in bit 0 of a byte tell those in all 64 bits. -/

namespace Sys2Proof.Machine

open Sys2Proof.Spec

/-! ### Differences under affine maps -/

section

variable {u v w : Nat}

/-- What is left of an affine map without its constant. -/
def linearPart (f : BitVec v → BitVec w) (d : BitVec v) : BitVec w := f d ^^^ f 0#v

theorem linearPart_of_map_zero {f : BitVec v → BitVec w} (h : f 0#v = 0#w) : linearPart f = f :=
  funext fun d => by rw [linearPart, h, BitVec.xor_zero]

/-- An affine map takes a difference to the value of its linear part, wherever the difference is. -/
theorem XorAffine.map_xor {f : BitVec v → BitVec w} (hf : XorAffine f) (x d : BitVec v) :
    f (x ^^^ d) = f x ^^^ linearPart f d := by
  rw [linearPart, ← BitVec.xor_assoc, hf, BitVec.xor_zero]

theorem XorAffine.linearPart_comp {g : BitVec v → BitVec w} (hg : XorAffine g) (f : BitVec u → BitVec v) :
    linearPart (fun x => g (f x)) = fun d => linearPart g (linearPart f d) := by
  funext d
  have apart : g (f d) = g (f 0#u) ^^^ linearPart g (linearPart f d) := by
    rw [← hg.map_xor, linearPart, BitVec.xor_comm (f d), xor_cancel_left]
  rw [linearPart, apart, BitVec.xor_comm, xor_cancel_left]

theorem XorAffine.foldl {α : Type} {f : BitVec w → α → BitVec w} (hf : ∀ i, XorAffine (f · i)) :
    ∀ l : List α, XorAffine (l.foldl f ·)
  | [] => XorLinear.id.affine
  | i :: l => (XorAffine.foldl hf l).comp (hf i)

end

/-! ### Differences under encryption -/

theorem xorAffine_encrypt (rk : Vector Block 27) : XorAffine (encrypt rk) :=
  XorAffine.foldl (fun key => xorAffine_rt.comp (XorAffine.xor_const key)) rk.toList

theorem encRound_xor (x d key : Block) : encRound (x ^^^ d) key = encRound x key ^^^ linearPart rt d := by
  rw [encRound, encRound, ← xorAffine_rt.map_xor]
  congr 1
  ac_rfl

theorem foldl_encRound_xor (keys : List Block) (x d : Block) :
    keys.foldl encRound (x ^^^ d) = keys.foldl encRound x ^^^ (linearPart rt)^[keys.length] d := by
  induction keys generalizing x d with
  | nil => rfl
  | cons key keys ih => rw [List.foldl_cons, encRound_xor, ih, List.foldl_cons, List.length_cons,
      Function.iterate_succ_apply]

/-- The difference at the output, from the difference at the input alone. -/
theorem encrypt_xor_encrypt (rk : Vector Block 27) (x d : Block) :
    encrypt rk x ^^^ encrypt rk (x ^^^ d) = (linearPart rt)^[27] d := by
  rw [encrypt, encrypt, foldl_encRound_xor, xor_cancel_left, Vector.length_toList]

/-! ### Multiplication of every byte by x -/

/-- Each byte of a block times x. -/
def mulXBytes (x : Block) : Block :=
  pack (mulX (byteAt 0 x)) (mulX (byteAt 1 x)) (mulX (byteAt 2 x)) (mulX (byteAt 3 x)) (mulX (byteAt 4 x))
    (mulX (byteAt 5 x)) (mulX (byteAt 6 x)) (mulX (byteAt 7 x))

theorem byteAt_mulXBytes {j : Nat} (hj : j < 8) (x : Block) : byteAt j (mulXBytes x) = mulX (byteAt j x) := by
  match j, hj with
  | 0, _ | 1, _ | 2, _ | 3, _ | 4, _ | 5, _ | 6, _ | 7, _ => simp [mulXBytes]

theorem gmul_mulX_right (a b : Byte) : gmul a (mulX b) = mulX (gmul a b) := by
  rw [gmul_comm, gmul_mulX_left, gmul_comm]

theorem linearPart_sbox (i : BitVec 4) (b : Byte) : linearPart (sbox i) b = gmul (sboxMulBase ^^^ i.setWidth 8) b := by
  calc linearPart (sbox i) b = gmul (sboxMulBase ^^^ i.setWidth 8) b ^^^ sboxAdd ^^^ 0x63 :=
        congrArg (sbox i b ^^^ ·) (sbox_zero i)
    _ = gmul (sboxMulBase ^^^ i.setWidth 8) b := xor_cancel_right _ _

theorem byteAt_linearPart_subl {j : Nat} (hj : j < 8) (d : Block) :
    byteAt j (linearPart subl d) = linearPart (sbox (BitVec.ofNat 4 (j + 1))) (byteAt j d) := by
  rw [linearPart, xorLinear_byteAt, byteAt_subl hj, byteAt_subl hj, (xorLinear_byteAt j).map_zero, linearPart]

theorem linearPart_subl_mulXBytes : Function.Commute (linearPart subl) mulXBytes := fun d => block_ext fun j hj => by
  rw [byteAt_linearPart_subl hj, byteAt_mulXBytes hj, byteAt_mulXBytes hj, byteAt_linearPart_subl hj, linearPart_sbox,
    linearPart_sbox, gmul_mulX_right]

theorem perml_mulXBytes : Function.Commute perml mulXBytes := fun d => block_ext fun j hj => by
  have source : ∀ j (h : j < 8), permTable[j] < 8 := by decide
  rw [byteAt_perml hj, byteAt_mulXBytes (source j hj), byteAt_mulXBytes hj, byteAt_perml hj]

theorem mixl_mulXBytes : Function.Commute mixl mulXBytes := fun d =>
  block_ext (forall_byte_of_pairs fun m hm => by
    have fst : 2 * m < 8 := by omega
    have snd : 2 * m + 1 < 8 := by omega
    simp only [byteAt_mixl hm, byteAt_mulXBytes fst, byteAt_mulXBytes snd, mixFst, mixSnd, gmul_mulX_right,
      xorLinear_mulX _ _, true_and])

/-- Only the substitution layer has a constant. -/
theorem linearPart_rt : linearPart rt = fun d => mixl (perml (linearPart subl d)) := by
  have perm : linearPart perml = perml := linearPart_of_map_zero (by decide)
  have mix : linearPart mixl = mixl := linearPart_of_map_zero (by decide)
  calc linearPart rt = fun d => linearPart mixl (linearPart (fun x => perml (subl x)) d) :=
        xorAffine_mixl.linearPart_comp _
    _ = fun d => mixl (perml (linearPart subl d)) := by rw [xorAffine_perml.linearPart_comp, mix, perm]

theorem linearPart_rt_mulXBytes : Function.Commute (linearPart rt) mulXBytes := by
  rw [linearPart_rt]
  exact mixl_mulXBytes.comp_left (perml_mulXBytes.comp_left linearPart_subl_mulXBytes)

/-! ### The differences of single bits -/

/-- What bit 0 of byte 7 - q becomes in 27 rounds. -/
def flipOfByte : Nat → Block
  | 0 => 0x00006CE700007530
  | 1 => 0x000022B500009735
  | 2 => 0x5BD20000273F0000
  | 3 => 0xD41F000077620000
  | 4 => 0x0000BBB900009A3F
  | 5 => 0x0000971A00007ABE
  | 6 => 0xB53F000044E30000
  | _ => 0x7BAD000076700000

theorem linearPart_rt_iterate_byte : ∀ q < 8, (linearPart rt)^[27] (1 <<< (8 * q)) = flipOfByte q := by
  rw [linearPart_rt]
  decide +kernel

theorem mulXBytes_bit : ∀ q < 8, ∀ r < 8, mulXBytes^[r] (1 <<< (8 * q)) = 1 <<< (8 * q + r) := by decide +kernel

/-- What bit i becomes in 27 rounds. -/
def flipOfBit (i : Nat) : Block := mulXBytes^[i % 8] (flipOfByte (i / 8))

theorem linearPart_rt_iterate_bit {i : Nat} (h : i < 64) : (linearPart rt)^[27] (1 <<< i) = flipOfBit i := by
  have bit : mulXBytes^[i % 8] (1 <<< (8 * (i / 8))) = (1 <<< i : Block) := by
    rw [mulXBytes_bit (i / 8) (by omega) (i % 8) (by omega), Nat.div_add_mod]
  rw [← bit, linearPart_rt_mulXBytes.iterate_iterate, linearPart_rt_iterate_byte (i / 8) (by omega), flipOfBit]

theorem weight_flipOfBit : ((List.range 64).map fun i => weight (flipOfBit i)).sum = 1106 ∧
    ∀ i < 64, 11 ≤ weight (flipOfBit i) ∧ weight (flipOfBit i) ≤ 23 := by decide +kernel

/-- Settles O53: the differences are those of the linear part of 27 rounds, which the table lists. -/
theorem encryptIsAffine : Obligations.EncryptIsAffine := by
  have flip (rk x) {i : Nat} (h : i < 64) : encrypt rk x ^^^ encrypt rk (x ^^^ (1 <<< i)) = flipOfBit i := by
    rw [encrypt_xor_encrypt, linearPart_rt_iterate_bit h]
  obtain ⟨total, bounds⟩ := weight_flipOfBit
  refine ⟨xorAffine_encrypt, fun rk rk' x x' d => ?anywhere, fun rk x => flip rk x (i := 0) (by decide),
    fun rk x => ⟨?total, fun i h => ?bounds⟩⟩
  case anywhere => rw [encrypt_xor_encrypt, encrypt_xor_encrypt]
  case total =>
    rw [← total]
    exact congrArg List.sum (List.map_congr_left fun i h => by rw [flip rk x (List.mem_range.1 h)])
  case bounds =>
    rw [flip rk x h]
    exact bounds i h

end Sys2Proof.Machine
end

section
/-! The byte commands of the CFB unit (43_cfb.md R202 to R204), both directions at once, and commands one after
another. -/

namespace Sys2Proof.Machine

open Sys2Proof.Spec

/-! ### The beginning of a stream -/

/-- What `cfb.setkey` leaves (R201). -/
def State.begun (k : Key) (iv : Block) (s : State) : State :=
  (s.beginStream (keySchedule k) (unpack iv)).complete 0

theorem exec_cfbSetkey (k : Key) (iv : Block) (s : State) : exec (.cfbSetkey k iv) s = .next (s.begun k iv) := rfl

theorem getElem_unpack (x : Block) {j : Nat} (h : j < 8) : (unpack x)[j] = byteAt j x := by
  match j, h with
  | 0, _ | 1, _ | 2, _ | 3, _ | 4, _ | 5, _ | 6, _ | 7, _ => rfl

/-! ### The two byte commands -/

/-- The byte command of a direction. -/
def Direction.command : Direction → Byte → Instr
  | .enc => .cfbEnc
  | .dec => .cfbDec

theorem exec_command (d : Direction) (a : Byte) (s : State) : exec (d.command a) s = cfbByte d a s := by
  cases d <;> rfl

theorem exists_command_of_isByteCommand {i : Instr} (h : isByteCommand i = true) :
    ∃ d a, i = Direction.command d a := by
  cases i with
  | cfbEnc a => exact ⟨.enc, a, rfl⟩
  | cfbDec a => exact ⟨.dec, a, rfl⟩
  | nop | gfMul | gfAdd | sbox | sub | perm | mix | rt | blkSetkey | blkEnc | blkDec | cfbSetkey => cases h

section ByteCommand

variable {d : Direction} {a out : Byte} {s : State} {rk : Vector Block 27} {ks ks' : Vector Byte 8}
  {k k' : BitVec 4}

/-- Without a stream a byte command fails (R203). -/
theorem cfbByte_of_not_ready (d : Direction) (a : Byte) (h : s.cfbRdy = false) :
    cfbByte d a s = .next (s.raiseErr .noCfb) := by
  cases hc : s.cipher with
  | unkeyed => rw [cfbByte, hc]
  | keyed rk b => rw [cfbByte, hc]
  | streaming rk ks => simp [State.cfbRdy_of_streaming hc] at h

/-- In a stream a byte command commits what its byte step answers (R203, R204). -/
theorem cfbByte_of_step (hc : s.cipher = .streaming rk ks)
    (hs : byteStep d a (streamBuffer rk ks s.kpos).1 (streamBuffer rk ks s.kpos).2 = some (out, ks', k)) :
    cfbByte d a s = .next ((s.writeStream rk ks' k).complete (zextByte out)) := by
  simp only [cfbByte, hc, hs]

/-- The byte step has a position only in the buffer. -/
theorem kpos_lt_of_byteStep (h : byteStep d a ks k = some (out, ks', k')) : k.toNat < 8 := by
  by_contra outside
  simp [byteStep, outside] at h

/-- At KPOS 0..7 a byte command works on the byte of the buffer at KPOS (R203, R204). -/
theorem cfbByte_held (d : Direction) (a : Byte) (hc : s.cipher = .streaming rk ks) {n : Nat} (h : n < 8)
    (hk : s.kpos.toNat = n) :
    cfbByte d a s =
      .next ((s.writeStream rk (ks.set n (d.feedback a (a ^^^ ks[n]))) (BitVec.ofNat 4 (n + 1))).complete
        (zextByte (a ^^^ ks[n]))) := by
  subst hk
  have notSpent : s.kpos ≠ 8 := fun spent => by simp [spent] at h
  have following : s.kpos + 1 = BitVec.ofNat 4 (s.kpos.toNat + 1) := by bv_omega
  refine cfbByte_of_step hc ?_
  rw [streamBuffer_held notSpent, byteStep_index h, following]

/-- At KPOS 8 a byte command is the one on the regenerated buffer at KPOS 0 (R202). -/
theorem cfbByte_spent (d : Direction) (a : Byte) (hc : s.cipher = .streaming rk ks) (hk : s.kpos = 8) :
    cfbByte d a s = cfbByte d a (s.writeStream rk (regen rk ks) 0) := by
  have first := byteStep_index (d := d) (a := a) (ks := regen rk ks) (k := 0) (by decide)
  have here := cfbByte_of_step (d := d) (a := a) hc (by rw [hk, streamBuffer_spent]; exact first)
  have fresh := cfbByte_of_step (d := d) (a := a) (s := s.writeStream rk (regen rk ks) 0) rfl
    (by rw [State.writeStream_kpos, streamBuffer_held (by decide)]; exact first)
  exact here.trans fresh.symm

/-- At KPOS 8 a byte command works on the byte at 0 of the regenerated buffer (R202 to R204). -/
theorem cfbByte_first (d : Direction) (a : Byte) (hc : s.cipher = .streaming rk ks) (hk : s.kpos = 8) :
    cfbByte d a s =
      .next ((s.writeStream rk ((regen rk ks).set 0 (d.feedback a (a ^^^ (regen rk ks)[0]))) 1).complete
        (zextByte (a ^^^ (regen rk ks)[0]))) :=
  (cfbByte_spent d a hc hk).trans (cfbByte_held d a rfl (by decide) rfl)

/-- The position that a byte command works at (R202). -/
theorem streamBuffer_kpos (h : k.toNat ≤ 8) : (streamBuffer rk ks k).2.toNat = k.toNat % 8 := by
  by_cases spent : k = 8
  · rw [spent, streamBuffer_spent]
    rfl
  · rw [streamBuffer_held spent]
    bv_omega

/-- A byte command of a stream at KPOS 0..8 has a byte step, commits it, and leaves KPOS in 1..8 (R25, R203, R204). -/
theorem cfbByte_streams (d : Direction) (a : Byte) (hc : s.cipher = .streaming rk ks) (h : s.kpos.toNat ≤ 8) :
    ∃ out ks' k, byteStep d a (streamBuffer rk ks s.kpos).1 (streamBuffer rk ks s.kpos).2 = some (out, ks', k) ∧
      k.toNat = s.kpos.toNat % 8 + 1 ∧ cfbByte d a s = .next ((s.writeStream rk ks' k).complete (zextByte out)) := by
  have step := byteStep_index (d := d) (a := a) (ks := (streamBuffer rk ks s.kpos).1)
    (streamBuffer_index (rk := rk) (ks := ks) h)
  have position := streamBuffer_kpos (rk := rk) (ks := ks) h
  exact ⟨_, _, _, step, by bv_omega, cfbByte_of_step hc step⟩

end ByteCommand

/-! ### Commands one after another -/

section Runs

variable {i : Instr} {is js : List Instr} {s t u : State} {results more : List Block}

theorem runCommands_cons (h : exec i s = .next t) (hr : runCommands is t = some (results, u)) :
    runCommands (i :: is) s = some (t.result :: results, u) := by
  simp only [runCommands, h, hr]

/-- A sequence runs alike from two states at which its first command does. -/
theorem runCommands_congr (h : exec i s = exec i t) : runCommands (i :: is) s = runCommands (i :: is) t := by
  simp only [runCommands, h]

/-- A sequence that runs to its end runs its first command, and the others from there. -/
theorem runCommands_cons_some (h : runCommands (i :: is) s = some (results, u)) :
    ∃ t rest, exec i s = .next t ∧ runCommands is t = some (rest, u) ∧ results = t.result :: rest := by
  cases he : exec i s with
  | next t =>
    cases hr : runCommands is t with
    | none => simp [runCommands, he, hr] at h
    | some p =>
      obtain ⟨rfl, rfl⟩ : t.result :: p.1 = results ∧ p.2 = u := by simpa [runCommands, he, hr] using h
      exact ⟨t, p.1, rfl, hr, rfl⟩
  | fault r => simp [runCommands, he] at h
  | refused r => simp [runCommands, he] at h

/-- Two sequences one after the other. -/
theorem runCommands_append (h : runCommands is s = some (results, t)) (hr : runCommands js t = some (more, u)) :
    runCommands (is ++ js) s = some (results ++ more, u) := by
  induction is generalizing s results with
  | nil =>
    cases h
    exact hr
  | cons i is ih =>
    obtain ⟨s', rest, he, hrest, rfl⟩ := runCommands_cons_some h
    exact runCommands_cons he (ih hrest)

end Runs

end Sys2Proof.Machine
end

section
/-! The commands `cfb.setkey`, `cfb.enc` and `cfb.dec` (43_cfb.md R201, R203, R204), from the command word to the
registers. -/

namespace Sys2Proof

open Sys2Proof.Machine Sys2Proof.Spec

theorem fieldIV_append (k : Key) (iv : Block) : fieldIV (k ++ iv) = iv :=
  BitVec.extractLsb'_append_eq_right

/-- Settles O41: the buffer is the unpacked IV. -/
theorem cfbSetkeyBeginsAStream : Obligations.CfbSetkeyBeginsAStream := by
  refine ⟨fun k iv s => ⟨unpack iv, s.begun k iv, exec_cfbSetkey k iv s, rfl, rfl, rfl, rfl, rfl,
    fun j => getElem_unpack iv j.isLt⟩, fun idx rsvd k iv s => ?word⟩
  case word =>
    have row := execute_commandWord (i := .cfbSetkey k iv) (by simp [Instr.opcode]) idx rsvd (k ++ iv) s
    rwa [Instr.withFields, fieldK_append, fieldIV_append] at row

/-- The word of a byte command, over data that holds the byte. -/
theorem execute_commandWord_byte (d : Direction) (idx : BitVec 4) (rsvd : BitVec 20) (rest : BitVec 184) (a : Byte)
    (s : State) :
    execute (commandWord (d.command a).opcode idx rsvd) (rest ++ a) s =
      if idx = 0 ∧ rsvd = 0 then exec (d.command a) s else .next (failed .rsvdField s) := by
  have notSbox : (d.command a).opcode ≠ 0x08 := by cases d <;> simp [Direction.command, Instr.opcode]
  have operand : (d.command a).withFields idx (rest ++ a) = d.command a := by
    cases d <;> rw [Direction.command, Instr.withFields, fieldA_append_rest]
  rw [execute_commandWord notSbox, operand]

/-- The first keystream of the published example: the zero IV under the zero key. -/
theorem regen_keySchedule_zero : regen (keySchedule 0) (unpack 0) = unpack 0x59654980FB7DE46B := by
  rw [regen, packBytes_unpack, encrypt_keySchedule_zero]

/-- The first byte after `cfb.setkey` of the example, in either direction (R203, R204). -/
theorem cfbByte_example (d : Direction) (a : Byte) {s t : State} (setup : exec (.cfbSetkey 0 0) s = .next t) :
    cfbByte d a t =
      .next ((t.writeStream (keySchedule 0) ((unpack 0x59654980FB7DE46B).set 0 (d.feedback a (a ^^^ 0x59))) 1).complete
        (zextByte (a ^^^ 0x59))) := by
  have stream : t.cipher = .streaming (keySchedule 0) (unpack 0) ∧ t.kpos = 8 := by
    cases setup
    exact ⟨rfl, rfl⟩
  obtain ⟨hc, hk⟩ := stream
  rw [cfbByte_first d a hc hk, regen_keySchedule_zero]
  rfl

/-- Settles O42: the fresh buffer at KPOS 8 is the regenerated one. -/
theorem cfbEncEncryptsOneByte : Obligations.CfbEncEncryptsOneByte :=
  ⟨fun a _ => cfbByte_of_not_ready .enc a,
    fun a _ _ _ k hr hrk hks => cfbByte_held .enc a (State.cipher_of_views hr hrk hks) k.isLt,
    fun a _ rk ks hr hrk hks hk =>
      ⟨regen rk ks, packBytes_unpack _, cfbByte_first .enc a (State.cipher_of_views hr hrk hks) hk⟩,
    fun _ _ => cfbByte_example .enc 0x00, execute_commandWord_byte .enc⟩

/-- Settles O43: as for `cfb.enc`, in the other direction. -/
theorem cfbDecDecryptsOneByte : Obligations.CfbDecDecryptsOneByte :=
  ⟨fun a _ => cfbByte_of_not_ready .dec a,
    fun a _ _ _ k hr hrk hks => cfbByte_held .dec a (State.cipher_of_views hr hrk hks) k.isLt,
    fun a _ rk ks hr hrk hks hk =>
      ⟨regen rk ks, packBytes_unpack _, cfbByte_first .dec a (State.cipher_of_views hr hrk hks) hk⟩,
    fun _ _ => cfbByte_example .dec 0x59, execute_commandWord_byte .dec⟩

end Sys2Proof
end

section
/-! The reference table of a byte command (43_cfb.md R210): regeneration in 27 rows and REFILL, then BYTE, whose row
leaves what the command commits. -/

namespace Sys2Proof.Machine

open Sys2Proof.Spec

section ByteRows

variable {d : Direction} {a out : Byte} {s : State} {rk : Vector Block 27} {ks ks' : Vector Byte 8} {k k' : BitVec 4}

/-- The row after acceptance: a regeneration where it is due, else BYTE. -/
theorem start_command (hc : s.cipher = .streaming rk ks) :
    Sequencer.start (d.command a) s = if s.kpos = 8 then .encRound (packBytes ks) 1 else .byte ks s.kpos := by
  cases d <;> simp only [Direction.command, Sequencer.start, hc] <;> rfl

/-- ENC_ROUND is over after 27 rows, and REFILL follows it. -/
theorem ticks_start_spent (hc : s.cipher = .streaming rk ks) (hk : s.kpos = 8) :
    Sequencer.ticks (d.command a) s 27 (Sequencer.start (d.command a) s) = .refill (encrypt rk (packBytes ks)) := by
  rw [start_command hc, if_pos hk, ticks_encRound_all _ _ (State.rk_of_streaming hc)]
  cases d <;> rfl

/-- The BYTE row does the byte step. -/
theorem tick_byte (hs : byteStep d a ks k = some (out, ks', k')) :
    Sequencer.tick (d.command a) s (.byte ks k) = .complete (.byte ks' k' out) := by
  cases d <;> simp only [Direction.command, Sequencer.tick, Sequencer.byteRow, hs]

/-- COMPLETE, after the rows of the regeneration where it is due and the BYTE row. -/
theorem ticks_start_byte (hc : s.cipher = .streaming rk ks)
    (hs : byteStep d a (streamBuffer rk ks s.kpos).1 (streamBuffer rk ks s.kpos).2 = some (out, ks', k)) :
    Sequencer.ticks (d.command a) s (if s.kpos = 8 then 29 else 1) (Sequencer.start (d.command a) s) =
      .complete (.byte ks' k out) := by
  split_ifs with hk
  · rw [hk, streamBuffer_spent] at hs
    rw [ticks_succ, ticks_succ, ticks_start_spent hc hk]
    exact tick_byte hs
  · rw [streamBuffer_held hk] at hs
    rw [start_command hc, if_neg hk]
    exact tick_byte (s := s) hs

theorem commit_byte (hc : s.cipher = .streaming rk ks) :
    Pending.commit (d.command a) (.byte ks' k out) s = some ((s.writeStream rk ks' k).complete (zextByte out)) := by
  cases d <;> simp only [Direction.command, Pending.commit, commitByte, hc]

end ByteRows

/-- Settles O56: the BYTE row and the command do the same byte step. -/
theorem byteMachineReachesTheCommand : Obligations.ByteMachineReachesTheCommand := by
  intro i s ks rk hi hr hks hrk hk
  obtain ⟨d, a, rfl⟩ := exists_command_of_isByteCommand hi
  have hc := State.cipher_of_views hr hrk hks
  obtain ⟨out, ks', k, step, -, commits⟩ := cfbByte_streams d a hc hk
  exact ⟨.byte ks' k out, _, ticks_start_byte hc step, ticks_start_spent hc, commit_byte hc,
    (exec_command d a s).trans commits⟩

end Sys2Proof.Machine
end

section
/-! Streams of bytes (43_cfb.md R205, R206): where KPOS stands, and what two runs over the same ciphertext share. -/

namespace Sys2Proof.Machine

open Sys2Proof.Spec

/-! ### Every eighth byte regenerates -/

/-- A stream after n byte commands, the last of which did not fail: KPOS counts them, and from 8 starts again (R206). -/
structure State.AfterBytes (n : Nat) (s : State) : Prop where
  ready : s.cfbRdy = true
  noError : s.err = .none
  kpos : s.kpos.toNat = (n + 7) % 8 + 1

theorem State.AfterBytes.kpos_eq_iff {n : Nat} {s : State} (h : s.AfterBytes n) : s.kpos = 8 ↔ n % 8 = 0 := by
  have := h.kpos
  bv_omega

/-- One more byte, in either direction. -/
theorem State.AfterBytes.byte {n : Nat} {s : State} {i : Instr} (h : s.AfterBytes n) (hi : isByteCommand i = true) :
    ∃ t, exec i s = .next t ∧ t.AfterBytes (n + 1) := by
  obtain ⟨d, a, rfl⟩ := exists_command_of_isByteCommand hi
  obtain ⟨rk, ks, hc⟩ := State.cipher_of_cfbRdy h.ready
  have before := h.kpos
  obtain ⟨out, ks', k, -, after, commits⟩ := cfbByte_streams d a hc (by omega)
  refine ⟨_, (exec_command d a s).trans commits, rfl, rfl, ?_⟩
  change k.toNat = _
  omega

theorem regenerations_cons {i : Instr} {s t : State} (is : List Instr) (hi : isByteCommand i = true)
    (hr : s.cfbRdy = true) (h : exec i s = .next t) :
    regenerations (i :: is) s = (if s.kpos = 8 then 1 else 0) + regenerations is t := by
  cases i with
  | cfbEnc a | cfbDec a => simp only [regenerations, hr, h, true_and]
  | nop | gfMul | gfAdd | sbox | sub | perm | mix | rt | blkSetkey | blkEnc | blkDec | cfbSetkey => cases hi

/-- The bytes after the first n. -/
theorem State.AfterBytes.bytes {n : Nat} {s : State} {bytes : List Instr} (h : s.AfterBytes n)
    (hb : ∀ i ∈ bytes, isByteCommand i = true) :
    regenerations bytes s + (n + 7) / 8 = (n + bytes.length + 7) / 8 ∧
      ∃ results t, runCommands bytes s = some (results, t) ∧ t.AfterBytes (n + bytes.length) := by
  induction bytes generalizing n s with
  | nil => exact ⟨Nat.zero_add _, [], s, rfl, h⟩
  | cons i is ih =>
    obtain ⟨hi, his⟩ := List.forall_mem_cons.1 hb
    obtain ⟨t, he, ht⟩ := h.byte hi
    obtain ⟨count, results, u, hr, hu⟩ := ih ht his
    have length : n + 1 + is.length = n + (i :: is).length := by simp only [List.length_cons]; omega
    refine ⟨?_, _, u, runCommands_cons he hr, length ▸ hu⟩
    rw [regenerations_cons is hi h.ready he, ← length, ← count]
    simp only [h.kpos_eq_iff]
    split_ifs <;> omega

theorem State.afterBytes_begun (k : Key) (iv : Block) (s : State) : (s.begun k iv).AfterBytes 0 := ⟨rfl, rfl, rfl⟩

/-- Settles O58: `cfb.setkey` begins a stream after no byte. -/
theorem everyEighthByteRegenerates : Obligations.EveryEighthByteRegenerates := by
  intro k iv bytes s hb
  obtain ⟨count, results, t, hr, ht⟩ := (State.afterBytes_begun k iv s).bytes hb
  have setup : regenerations (.cfbSetkey k iv :: bytes) s = regenerations bytes (s.begun k iv) := Nat.zero_add _
  have position := ht.kpos
  rw [Nat.zero_add] at count ht
  refine ⟨by rw [setup]; omega, _, t, runCommands_cons (exec_cfbSetkey k iv s) hr, ht.noError, ht.ready, ?_,
    ht.kpos_eq_iff⟩
  split_ifs <;> omega

/-! ### Decryption undoes encryption -/

/-- The decrypting byte step on the ciphertext byte undoes the encrypting one, and feeds back the same byte (R204). -/
theorem byteStep_dec_of_enc {p c : Byte} {ks ks' : Vector Byte 8} {k k' : BitVec 4}
    (h : byteStep .enc p ks k = some (c, ks', k')) : byteStep .dec c ks k = some (p, ks', k') := by
  have index := kpos_lt_of_byteStep h
  rw [byteStep_index index] at h ⊢
  obtain ⟨rfl, rfl, rfl⟩ : p ^^^ ks[k.toNat] = c ∧ _ = ks' ∧ k + 1 = k' := by simpa using h
  rw [xor_cancel_right]
  rfl

/-- Two states at the same place of the same stream. -/
structure SameStream (s t : State) : Prop where
  ready : s.cfbRdy = true
  cipher : t.cipher = s.cipher
  kpos : t.kpos = s.kpos

/-- A byte encrypted at one of two such states decrypts from its ciphertext byte at the other (R205). -/
theorem SameStream.byte {s s' t : State} {p : Byte} (h : SameStream s t) (encrypts : exec (.cfbEnc p) s = .next s') :
    ∃ c t', s'.result = c.setWidth 64 ∧ exec (.cfbDec c) t = .next t' ∧ t'.result = p.setWidth 64 ∧
      SameStream s' t' := by
  rcases cfbByte_next encrypts with ⟨notReady, -⟩ | ⟨rk, ks, c, ks', k, hc, step, rfl⟩
  · simp [h.ready] at notReady
  · have decrypts := cfbByte_of_step (h.cipher.trans hc) (h.kpos ▸ byteStep_dec_of_enc step)
    exact ⟨c, _, rfl, decrypts, rfl, rfl, rfl, rfl⟩

/-- A sequence of bytes encrypted from one of two such states decrypts from its ciphertext at the other (R205). -/
theorem SameStream.bytes {s s' t : State} {plain : List Byte} {results : List Block} (h : SameStream s t)
    (encrypts : runCommands (plain.map .cfbEnc) s = some (results, s')) :
    ∃ (cipher : List Byte) (t' : State), cipher.length = plain.length ∧ results = cipher.map (·.setWidth 64) ∧
      runCommands (cipher.map .cfbDec) t = some (plain.map (·.setWidth 64), t') ∧ SameStream s' t' := by
  induction plain generalizing s t results with
  | nil =>
    cases encrypts
    exact ⟨[], t, rfl, rfl, rfl, h⟩
  | cons p plain ih =>
    obtain ⟨s₁, rest, first, others, rfl⟩ := runCommands_cons_some encrypts
    obtain ⟨c, t₁, hc, decrypts, hp, same⟩ := h.byte first
    obtain ⟨cipher, t', length, rfl, hr, same'⟩ := ih same others
    refine ⟨c :: cipher, t', congrArg (· + 1) length, by rw [hc, List.map_cons], ?_, same'⟩
    rw [List.map_cons, List.map_cons, ← hp]
    exact runCommands_cons decrypts hr

/-- Settles O57: the same `cfb.setkey` puts any two states at the start of the same stream. -/
theorem cfbDecryptionUndoesEncryption : Obligations.CfbDecryptionUndoesEncryption := by
  intro k iv plain s
  have onlyBytes : ∀ i ∈ plain.map Instr.cfbEnc, isByteCommand i = true := by simp [isByteCommand]
  obtain ⟨-, results, t, encrypts, -⟩ := (State.afterBytes_begun k iv s).bytes onlyBytes
  have same : SameStream (s.begun k iv) (t.begun k iv) := ⟨rfl, rfl, rfl⟩
  obtain ⟨cipher, u, length, rfl, decrypts, same'⟩ := same.bytes encrypts
  refine ⟨cipher, t, u, length, runCommands_cons (exec_cfbSetkey k iv s) encrypts,
    runCommands_cons (exec_cfbSetkey k iv t) decrypts, ?_, same'.kpos⟩
  exact congrArg CipherState.ks same'.cipher

end Sys2Proof.Machine
end

section
/-! Whole blocks of a stream (43_cfb.md R207): the eight bytes after a regeneration turn the keystream block in the
buffer into the ciphertext block, from which the next regeneration starts. -/

namespace Sys2Proof.Machine

open Sys2Proof.Spec

/-- The buffer when n bytes of its keystream block have given way to those of the ciphertext block (R200). -/
def partlySpent (cipher stream : Block) (n : Nat) : Vector Byte 8 :=
  Vector.ofFn fun j => if j < n then byteAt j cipher else byteAt j stream

section

variable (cipher stream : Block) {j n : Nat}

theorem getElem_partlySpent (h : j < 8) :
    (partlySpent cipher stream n)[j] = if j < n then byteAt j cipher else byteAt j stream :=
  Vector.getElem_ofFn h

theorem partlySpent_zero : partlySpent cipher stream 0 = unpack stream :=
  Vector.ext fun j hj => by rw [getElem_partlySpent _ _ hj, getElem_unpack _ hj, if_neg j.not_lt_zero]

theorem partlySpent_all : partlySpent cipher stream 8 = unpack cipher :=
  Vector.ext fun j hj => by rw [getElem_partlySpent _ _ hj, getElem_unpack _ hj, if_pos hj]

/-- Byte n is the next to give way. -/
theorem partlySpent_next (h : n < 8) : (partlySpent cipher stream n)[n] = byteAt n stream := by
  rw [getElem_partlySpent _ _ h, if_neg n.lt_irrefl]

theorem partlySpent_set (h : n < 8) :
    (partlySpent cipher stream n).set n (byteAt n cipher) = partlySpent cipher stream (n + 1) :=
  Vector.ext fun j hj => by
    rw [Vector.getElem_set, getElem_partlySpent _ _ hj, getElem_partlySpent _ _ hj]
    by_cases here : n = j
    · rw [if_pos here, if_pos (by omega), here]
    · have others : j < n + 1 ↔ j < n := by omega
      simp only [if_neg here, others]

end

section

variable {s : State} {rk : Vector Block 27}

/-- The first n bytes of a block, encrypted over a fresh keystream block. -/
theorem runCommands_bytes (plain : Block) {stream : Block} {n : Nat} (h : n ≤ 8)
    (hc : s.cipher = .streaming rk (unpack stream)) (hk : s.kpos = 0) :
    ∃ t, runCommands ((List.range n).map fun j => .cfbEnc (byteAt j plain)) s =
        some ((List.range n).map fun j => (byteAt j (plain ^^^ stream)).setWidth 64, t) ∧
      t.cipher = .streaming rk (partlySpent (plain ^^^ stream) stream n) ∧ t.kpos = BitVec.ofNat 4 n := by
  induction n with
  | zero => exact ⟨s, rfl, by rw [hc, partlySpent_zero], hk⟩
  | succ n ih =>
    obtain ⟨t, hr, hct, hkt⟩ := ih (by omega)
    have position : t.kpos.toNat = n := by rw [hkt]; exact Nat.mod_eq_of_lt (by omega)
    have last := cfbByte_held .enc (byteAt n plain) hct h position
    simp only [Direction.feedback, partlySpent_next _ _ h, ← xorLinear_byteAt n plain stream,
      partlySpent_set _ _ h] at last
    rw [List.range_succ, List.map_append, List.map_append]
    exact ⟨_, runCommands_append hr (runCommands_cons ((exec_command .enc _ t).trans last) rfl), rfl, rfl⟩

/-- One block, from the regeneration at its first byte to the spent buffer (R207). -/
theorem runCommands_block (plain : Block) {prev : Block} (hc : s.cipher = .streaming rk (unpack prev))
    (hk : s.kpos = 8) :
    ∃ t, runCommands ((bytesOf plain).map .cfbEnc) s =
        some ((bytesOf (plain ^^^ encrypt rk prev)).map (·.setWidth 64), t) ∧
      t.cipher = .streaming rk (unpack (plain ^^^ encrypt rk prev)) ∧ t.kpos = 8 := by
  have refill : regen rk (unpack prev) = unpack (encrypt rk prev) := by rw [regen, packBytes_unpack]
  have regenerates : runCommands ((bytesOf plain).map .cfbEnc) s =
      runCommands ((bytesOf plain).map .cfbEnc) (s.writeStream rk (unpack (encrypt rk prev)) 0) := by
    obtain ⟨others, first⟩ : ∃ others, bytesOf plain = byteAt 0 plain :: others := ⟨_, rfl⟩
    rw [first, List.map_cons, ← refill]
    exact runCommands_congr (cfbByte_spent .enc (byteAt 0 plain) hc hk)
  obtain ⟨t, hr, hct, hkt⟩ := runCommands_bytes (s := s.writeStream rk (unpack (encrypt rk prev)) 0) plain le_rfl
    rfl rfl
  rw [partlySpent_all] at hct
  refine ⟨t, ?_, hct, hkt⟩
  rw [regenerates, bytesOf, bytesOf, List.map_map, List.map_map]
  exact hr

/-- Blocks one after another, from the block that the buffer holds (R207). -/
theorem runCommands_blocks (blocks : List Block) {prev : Block} (hc : s.cipher = .streaming rk (unpack prev))
    (hk : s.kpos = 8) :
    ∃ t, runCommands ((blocks.flatMap bytesOf).map .cfbEnc) s =
      some (((feedbackChain rk prev blocks).flatMap bytesOf).map (·.setWidth 64), t) := by
  induction blocks generalizing s prev with
  | nil => exact ⟨s, rfl⟩
  | cons plain blocks ih =>
    obtain ⟨t, hr, hct, hkt⟩ := runCommands_block plain hc hk
    obtain ⟨u, hu⟩ := ih hct hkt
    refine ⟨u, ?_⟩
    rw [feedbackChain, List.flatMap_cons, List.flatMap_cons, List.map_append, List.map_append]
    exact runCommands_append hr hu

end

/-- Settles O59: `cfb.setkey` leaves the IV in a spent buffer. -/
theorem cfbStreamIsFullBlockFeedback : Obligations.CfbStreamIsFullBlockFeedback := by
  intro k iv blocks s
  obtain ⟨t, hr⟩ := runCommands_blocks (s := s.begun k iv) (rk := keySchedule k) blocks (prev := iv) rfl rfl
  exact ⟨t, runCommands_cons (exec_cfbSetkey k iv s) hr⟩

end Sys2Proof.Machine
end

section
/-! The byte commands and the commands of the block cipher (43_cfb.md R211). -/

namespace Sys2Proof.Machine

open Sys2Proof.Spec

/-- `blk.enc` writes only what every command overwrites without reading (42_block_cipher.md R168). -/
theorem execBlkEnc_frame {x : Block} {s t : State} (h : exec (.blkEnc x) s = .next t) :
    t.ks = s.ks ∧ t.kpos = s.kpos ∧ t.cfbRdy = s.cfbRdy ∧ ∀ i, exec i t = exec i s := by
  rcases execBlkEnc_next x s with ⟨-, he⟩ | ⟨rk, -, -, he⟩
  · obtain rfl := Host.Outcome.next.inj (he.symm.trans h)
    exact ⟨rfl, rfl, rfl, fun i => exec_overwrites i s .noKey 0 true none⟩
  · obtain rfl := Host.Outcome.next.inj (he.symm.trans h)
    exact ⟨rfl, rfl, rfl, fun i => exec_overwrites i s .none (encrypt rk x) true none⟩

/-- Only `cfb.setkey` begins a stream (10_state.md R26). -/
theorem CommandEffect.keeps_not_ready {s t : State} {i : Instr} (h : CommandEffect s i t) (hi : isCfbSetkey i = false)
    (hs : s.cfbRdy = false) : t.cfbRdy = false := by
  cases h with
  | result v hk | error c hk => exact hs
  | keys k => rfl
  | stream k iv => cases hi
  | byte ks' k v hb hc hk => simp [State.cfbRdy_of_streaming hc] at hs

theorem runCommands_keeps_not_ready {is : List Instr} {s t : State} {results : List Block}
    (hsetup : ∀ i ∈ is, isCfbSetkey i = false) (hs : s.cfbRdy = false) (h : runCommands is s = some (results, t)) :
    t.cfbRdy = false := by
  induction is generalizing s results with
  | nil =>
    cases h
    exact hs
  | cons i is ih =>
    obtain ⟨hi, his⟩ := List.forall_mem_cons.1 hsetup
    obtain ⟨u, rest, he, hr, -⟩ := runCommands_cons_some h
    exact ih his ((exec_effect he).keeps_not_ready hi hs) hr

/-- Settles O60: `blk.setkey` ends the stream, and no command but `cfb.setkey` begins one. -/
theorem blockCommandsAndStreams : Obligations.BlockCommandsAndStreams := by
  refine ⟨fun x i s t _ h => ?enc, fun k between i s t results hb hi h => ?setkey⟩
  case enc =>
    obtain ⟨hks, hkpos, hready, same⟩ := execBlkEnc_frame h
    exact ⟨hks, hkpos, hready, same i⟩
  case setkey =>
    obtain ⟨u, rest, he, hr, -⟩ := runCommands_cons_some h
    have ended : u.cfbRdy = false := by
      cases he
      rfl
    obtain ⟨d, a, rfl⟩ := exists_command_of_isByteCommand hi
    rw [exec_command]
    exact cfbByte_of_not_ready d a (runCommands_keeps_not_ready hb ended hr)

end Sys2Proof.Machine
end

section
/-! Execution of commands (44_control.md R230, R231): every edge of the invariant goes on, the completion edge runs the
command in flight, and `nop` from the command word to the registers. -/

namespace Sys2Proof.Machine

/-- Settles O22: the completion edge is the only kind of edge that could stop, and the invariant's KPOS in 0..8 lets every
command complete there. -/
theorem noStepStopsTheMachine : Obligations.NoStepStopsTheMachine := by
  intro s hs
  cases hr : s.pin.rst with
  | true => exact ⟨_, step_of_reset hr⟩
  | false =>
    cases hf : s.inflight with
    | none =>
      cases hv : s.pin.cmdValid with
      | true => exact ⟨_, step_of_accept hr hf hv⟩
      | false => exact ⟨_, step_of_idle hr hf hv⟩
    | some f =>
      cases hl : f.left with
      | zero =>
        rw [step_of_completion hr hf hl]
        exact execute_goesOn f.cw f.cd hs.kposRange
      | succ n => exact ⟨_, step_of_wait hr hf hl⟩

/-- Settles O10. -/
theorem stepRunsTheDecodedCommand : Obligations.StepRunsTheDecodedCommand := fun s _ _ hr hf hl hd =>
  (step_of_completion hr hf hl).trans (execute_of_decode_ok s.sampled hd)

/-! ### A command placed at its completion edge -/

/-- Placing a command writes the command in flight and the script alone, and no reset aborts it (log 4). -/
theorem State.atCompletionOf_eq (cw : CmdWord) (cd : CmdData) (s : State) :
    ∃ script, (script.headD Pins.idle).rst = false ∧
      s.atCompletionOf cw cd = State.latch cw cd 0 (Sequencer.accept cw cd s) { s with pins := script } := by
  cases hr : s.pin.rst with
  | true => exact ⟨Pins.idle :: s.pins, rfl, if_pos hr⟩
  | false => exact ⟨s.pins, hr, if_neg (Bool.eq_false_iff.1 hr)⟩

/-- Settles O11: `Execute` does not read what is in flight, so that the placed command runs as from the state before. -/
theorem placedCommandRunsNext : Obligations.PlacedCommandRunsNext := by
  intro s nbits w
  obtain ⟨script, noReset, placed⟩ :=
    State.atCompletionOf_eq (commandOfTable nbits w).word (commandOfTable nbits w).data s
  refine ⟨script.tail, ?_⟩
  rw [State.withFetchWord, placed, step_of_completion (by exact noReset) rfl rfl]
  exact execute_overwrites _ _ { s with pins := script.tail } s.err s.result s.done _

/-! ### `nop` -/

/-- Settles O30: `nop` reads no operand, so that the word says all. -/
theorem nopWritesOnlyResultAndErr : Obligations.NopWritesOnlyResultAndErr :=
  ⟨fun _ => rfl, execute_commandWord (i := .nop) (by decide)⟩

end Sys2Proof.Machine
end

section
/-! Errors (60_exceptions.md R241 to R243): which error a completed command reports, and that it leaves nothing else
behind. -/

namespace Sys2Proof.Machine

open Sys2Proof.Spec

/-! ### An error changes nothing else -/

/-- Of the effects of a command, only the error has ERR other than NONE. -/
theorem CommandEffect.eq_failed_of_err {s t : State} {i : Instr} (h : CommandEffect s i t) (he : t.err ≠ .none) :
    t = failed t.err s := by
  cases h with
  | error c hk => rfl
  | result | keys | stream | byte => exact absurd rfl he

/-- Settles O24, by what `Execute` can answer: the effect of a command, or a decode error. -/
theorem errorsChangeNothingElse : Obligations.ErrorsChangeNothingElse := by
  intro cw cd s t h he
  rcases execute_next h with ⟨i, -, hexec⟩ | ⟨e, -, rfl⟩
  · exact (exec_effect hexec).eq_failed_of_err he
  · rfl

end Sys2Proof.Machine

namespace Sys2Proof

open Sys2Proof.Machine Sys2Proof.Spec

/-! ### The one error that a decoded command can raise -/

/-- The error of a command in a state: for each command, the code of its row of R242, or NONE. -/
def Instr.errorIn (s : State) : Instr → ErrCode
  | .sbox i _ => if i = 0 ∨ 9 ≤ i.toNat then .badIndex else .none
  | .blkEnc _ => if s.keyed = false then .noKey else .none
  | .blkDec => .unimplemented
  | .cfbEnc _ | .cfbDec _ => if s.cfbRdy = false then .noCfb else .none
  | .nop | .gfMul _ _ | .gfAdd _ _ | .sub _ | .perm _ | .mix _ | .rt _ | .blkSetkey _ | .cfbSetkey _ _ => .none

section Reported

variable {s t : State}

theorem err_of_execSbox {i : BitVec 4} {a : Byte} (h : exec (.sbox i a) s = .next t) :
    t.err = (Instr.sbox i a).errorIn s := by
  by_cases illegal : i = 0 ∨ 9 ≤ i.toNat
  · cases (execSbox_of_illegal a s illegal).symm.trans h
    exact (if_pos illegal).symm
  · obtain ⟨nonzero, below⟩ := not_or.1 illegal
    have legal : 1 ≤ i.toNat ∧ i.toNat ≤ 8 := by bv_omega
    cases (exec_sbox_of_legal legal a s).symm.trans h
    exact (if_neg illegal).symm

theorem err_of_execBlkEnc {x : Block} (h : exec (.blkEnc x) s = .next t) : t.err = (Instr.blkEnc x).errorIn s := by
  rcases execBlkEnc_next x s with ⟨hkey, he⟩ | ⟨rk, hkey, -, he⟩ <;> cases he.symm.trans h
  · exact (if_pos hkey).symm
  · simp [Instr.errorIn, hkey]

/-- Both directions. -/
theorem err_of_cfbByte {d : Direction} {a : Byte} (h : cfbByte d a s = .next t) :
    t.err = if s.cfbRdy = false then .noCfb else .none := by
  rcases cfbByte_next h with ⟨notReady, rfl⟩ | ⟨rk, ks, out, ks', k', hc, -, rfl⟩
  · simp [notReady]
  · simp [State.cfbRdy_of_streaming hc]

/-- A command that completes reports its own error. -/
theorem err_of_exec {i : Instr} (h : exec i s = .next t) : t.err = i.errorIn s := by
  cases i with
  | nop | gfMul | gfAdd | sub | perm | mix | rt | blkSetkey | blkDec | cfbSetkey => cases h; rfl
  | sbox => exact err_of_execSbox h
  | blkEnc => exact err_of_execBlkEnc h
  | cfbEnc | cfbDec => exact err_of_cfbByte h

end Reported

/-! ### The order of R243: the decoder's errors first, then the command's own -/

section Order

variable {cw : CmdWord}

/-! `firstError` reads the fields of the command word by shifts. -/

theorem opField_eq_setWidth (cw : CmdWord) : cw.setWidth 8 = opField cw :=
  BitVec.setWidth_eq_extractLsb' (by decide)

theorem idxField_eq_setWidth (cw : CmdWord) : (cw >>> 8).setWidth 4 = idxField cw := rfl

theorem rsvdField_eq_setWidth (cw : CmdWord) : (cw >>> 12).setWidth 20 = rsvdField cw := rfl

theorem firstError_illegalOp (s : State) (h : opField cw ∉ opcodes) : firstError cw s = .illegalOp := by
  rw [← opField_eq_setWidth] at h
  exact if_pos h

theorem firstError_rsvdField (s : State) (h : opField cw ∈ opcodes) (hset : reservedBitsSet cw) :
    firstError cw s = .rsvdField := by
  rw [reservedBitsSet, ← opField_eq_setWidth, ← idxField_eq_setWidth, ← rsvdField_eq_setWidth] at hset
  rw [← opField_eq_setWidth] at h
  exact (if_neg (not_not.2 h)).trans (if_pos hset)

/-- Past the decoder only the command's own error can apply. -/
theorem firstError_command (s : State) (cd : CmdData) {i : Instr} (h : opField cw = i.opcode)
    (hclear : ¬ reservedBitsSet cw) : firstError cw s = (i.withFields (idxField cw) cd).errorIn s := by
  have legal : i.opcode ∈ opcodes := mem_opcodes_iff.2 ⟨i, rfl⟩
  rw [reservedBitsSet, h] at hclear
  simp only [firstError, opField_eq_setWidth, idxField_eq_setWidth, rsvdField_eq_setWidth, h]
  rw [if_neg (not_not.2 legal), if_neg hclear]
  cases i with
  | nop | gfMul | gfAdd | sub | perm | mix | rt | blkSetkey | blkDec | cfbSetkey => rfl
  | sbox | blkEnc | cfbEnc | cfbDec => simp [Instr.opcode, Instr.withFields, Instr.errorIn]

end Order

/-- Settles O8, by the checks of the decoder in their order, and then the command's own error. -/
theorem reportedErrorIsTheFirstThatApplies : Obligations.ReportedErrorIsTheFirstThatApplies := by
  refine ⟨fun cw cd s t h => ?reported, rfl, fun e => ?codes⟩
  case reported =>
    by_cases hop : opField cw ∈ opcodes
    · by_cases hset : reservedBitsSet cw
      · cases (execute_of_decode_error s (decode_rsvdField cd hop hset)).symm.trans h
        exact (firstError_rsvdField s hop hset).symm
      · obtain ⟨i, hi⟩ := mem_opcodes_iff.1 hop
        rw [execute_of_decode_ok s (decode_command cd hi.symm hset)] at h
        exact (err_of_exec h).trans (firstError_command s cd hi.symm hset).symm
    · cases (execute_of_decode_error s (decode_illegalOp cd hop)).symm.trans h
      exact (firstError_illegalOp s hop).symm
  case codes => cases e <;> decide

end Sys2Proof
end

section
/-! Reset (70_reset_and_hazards.md R270 to R272): what an edge with rst = 1 leaves behind, and the first edge after it. -/

namespace Sys2Proof.Machine

variable (s : State)

/-! ### The registers after a reset edge -/

/-- R36, whatever the core was doing. -/
theorem State.resetEdge_arch : s.resetEdge.arch = State.reset.arch := rfl

/-- A command in flight is aborted (R270). -/
theorem State.resetEdge_busy : s.resetEdge.busy = false := rfl

/-- Settles O13: nothing of the old state but the script and the count of acceptances reaches the state after the edge. -/
theorem resetEdgeWinsOverEverything : Obligations.ResetEdgeWinsOverEverything := fun s hr =>
  ⟨s.sampled.resetEdge, step_of_reset hr, s.sampled.resetEdge_arch, s.sampled.resetEdge_busy,
    s.sampled.resetEdge_done, s.sampled.resetEdge_inflight⟩

/-! ### The outputs and the first offer -/

theorem State.resetEdge_status : s.resetEdge.status = 0x0800 := by
  obtain ⟨-, -, -, -, -, -, -, -, status⟩ := resetStateHasTheStatedValues
  exact (State.status_congr s.resetEdge_arch s.resetEdge_busy).trans status

/-- R54: no offer is accepted while rst = 1. -/
theorem State.cmdReady_of_reset (hr : s.pin.rst = true) : s.cmdReady = false := by
  rw [State.cmdReady, hr, Bool.not_true, Bool.false_and]

/-- After a reset edge BUSY is 0, so that only another reset keeps the core from being ready (20_memory.md R54). -/
theorem State.resetEdge_cmdReady : s.resetEdge.cmdReady = !s.resetEdge.pin.rst := by
  rw [State.cmdReady, State.resetEdge_busy, Bool.not_false, Bool.and_true]

/-- R271. -/
theorem State.resetEdge_outputs :
    s.resetEdge.outputs = { cmdReady := !s.resetEdge.pin.rst, done := false, result := 0, status := 0x0800 } := by
  rw [State.outputs, State.resetEdge_cmdReady, State.resetEdge_done, State.resetEdge_result, State.resetEdge_status]

/-- Settles O14: a reset edge leaves an idle core, which accepts the offer of the next edge unless that edge resets too. -/
theorem outputsAroundReset : Obligations.OutputsAroundReset := by
  refine ⟨fun s hr => s.cmdReady_of_reset hr, fun s t hr h => ?_⟩
  rw [step_of_reset hr] at h
  cases h
  exact ⟨s.sampled.resetEdge_outputs, fun noReset hv =>
    ⟨_, step_of_accept noReset s.sampled.resetEdge_inflight hv, rfl⟩⟩

end Sys2Proof.Machine
end
